-- ==== Sys2Proof/Word.lean ====
section
/-! DEFINITION. The words CORE's rules speak of (00_scope.md R13): bytes, frames, operation and response words, and single bits.
Bit 0 is the least significant bit of every value, and every value is unsigned. -/

namespace Sys2Proof

/-- A byte, `b[7:0]` (R13). -/
abbrev Byte := BitVec 8

/-- A wire frame, `f[11:0]`; bit i is wire position i (R13, R70). -/
abbrev Frame := BitVec 12

/-- A 16-bit operation word (R75), response word (R84) or trace record (R87, R89). -/
abbrev Word := BitVec 16

/-- A single bit or a line level; `true` is 1 (R13, R15). -/
abbrev Bit := Bool

end Sys2Proof
end

