-- ==== Sys2Proof/Config.lean ====
section
/-! DEFINITION. The implementation parameters of 00_scope.md R6 to R10. The two that a rule of CORE reads, SEND_PATH_IMPLEMENTED
and QUEUE_CAP, are the fields of `Params`, which State carries, so that a statement over all states holds for every value of them.
The others, which no rule's result depends on (R10, R290), are constants without a body. -/

namespace Sys2Proof

/-- QUEUE_CAP ∈ ℕ ∪ {∞} with the law QUEUE_CAP ≥ 1, which holds by construction (R9). -/
inductive QueueCap where
  /-- QUEUE_CAP = ∞: a queue is never full. -/
  | unbounded
  /-- QUEUE_CAP = `cap`. -/
  | bounded (cap : Nat) (atLeastOne : 1 ≤ cap)
  deriving DecidableEq, Repr

/-- The parameters that a rule of CORE reads; fixed for a machine, no operation writes them. -/
structure Params where
  /-- SEND_PATH_IMPLEMENTED (R6). -/
  sendPathImplemented : Bool
  /-- QUEUE_CAP (R9). -/
  queueCap : QueueCap
  deriving DecidableEq, Repr

namespace Config

/-- By how much the inhibit lasts longer than 100 µs; left open (R7, D32). -/
opaque inhibitExtraUs : Nat

/-- T_INHIBIT_US, any number of microseconds with T_INHIBIT_US ≥ 100 (R7). -/
def tInhibitUs : Nat := 100 + inhibitExtraUs

/-- By how much the read timeout lasts longer than 1 µs; left open (R8, D17). -/
opaque readTimeoutExtraUs : Nat

/-- READ_TIMEOUT_US, any number of microseconds with READ_TIMEOUT_US > 0 (R8). -/
def readTimeoutUs : Nat := 1 + readTimeoutExtraUs

/-- LINE_MODEL: the level of a line, from the level CORE drives and the level the device drives; left open, and no rule of CORE
depends on it (R10, D4). -/
opaque lineModel : Bit → Bit → Bit

end Config

end Sys2Proof
end

