-- ==== Sys2Proof/Syntax.lean ====
section
/-! DEFINITION. The operations of CORE, one constructor per row of spec/opcode_table.json (30_encoding.md R79). A word that is no
operation (ILLEGAL, R80) is no row of the table and has no constructor: the decoder answers it with a named reason. -/

namespace Sys2Proof

/-- One operation, with its operand field: `L`, the sampled data level (R76), or `D`, the byte operand (R77). -/
inductive Instr where
  /-- FALL L: a falling edge on the clock line (R180). -/
  | fall (l : Bit)
  /-- RISE L: a rising edge on the clock line (R181). -/
  | rise (l : Bit)
  /-- WRITE D: the consumer's `writeByte(byte)` (R152). -/
  | write (d : Byte)
  /-- INHDONE: the expiry of the inhibit timer (R153). -/
  | inhdone
  /-- READ: the consumer's `readBlocking` (R210). -/
  | read
  /-- RTMO: the expiry of the read timer (R212). -/
  | rtmo
  /-- REGCB D: the consumer's `registerCallback(fn)` (R201). -/
  | regcb (d : Byte)
  /-- UNREGCB: the consumer's `unregisterCallback()` (R202). -/
  | unregcb
  /-- ENABLE: the consumer's `enable()` (R203). -/
  | enable
  /-- DISABLE: the consumer's `disable()` (R204). -/
  | disable
  /-- ACKST: the readout of the latest write's ack result (R216). -/
  | ackst
  deriving DecidableEq, Repr

end Sys2Proof
end

