-- ==== Sys2Proof/WellFormed.lean ====
section
/-! DEFINITION. Which operation words are legal: the four conditions of 30_encoding.md R78 and R80 on the fields of R75, written
without the opcode map's masks, so that the two can be compared. An instruction is well-formed when its fields are legal; its
operand types admit exactly the values the encoding has, so every one is (`Laws/PerInstr.lean` proves it constructor by constructor). -/

namespace Sys2Proof

/-- The four fields of an operation word (R75). -/
structure WordFields where
  /-- OP, w[15:12]. -/
  op : BitVec 4
  /-- RSV, w[11:9]. -/
  rsv : BitVec 3
  /-- L, w[8]. -/
  level : Bit
  /-- D, w[7:0]. -/
  operand : Byte
  deriving DecidableEq, Repr

/-- The reserved OP values are 0x0 and 0xC to 0xF (R80). -/
def WordFields.opAssigned (f : WordFields) : Bool := 0x1#4 ≤ f.op && f.op ≤ 0xB#4

/-- RSV = 000 (R78). -/
def WordFields.reservedClear (f : WordFields) : Bool := f.rsv == 0#3

/-- L = 0 unless OP is FALL or RISE (R78). -/
def WordFields.levelAllowed (f : WordFields) : Bool := f.op == 0x1#4 || f.op == 0x2#4 || f.level == false

/-- D = 0x00 unless OP is WRITE or REGCB (R78). -/
def WordFields.operandAllowed (f : WordFields) : Bool := f.op == 0x3#4 || f.op == 0x7#4 || f.operand == 0x00#8

/-- A legal operation word: all four conditions (R78, R80). -/
def WordFields.wellFormed (f : WordFields) : Bool :=
  f.opAssigned && f.reservedClear && f.levelAllowed && f.operandAllowed

/-- The fields of an instruction's word, from the opcode map's `OP` column (R79). -/
def Instr.fields : Instr → WordFields
  | .fall l => ⟨0x1#4, 0#3, l, 0x00#8⟩
  | .rise l => ⟨0x2#4, 0#3, l, 0x00#8⟩
  | .write d => ⟨0x3#4, 0#3, false, d⟩
  | .inhdone => ⟨0x4#4, 0#3, false, 0x00#8⟩
  | .read => ⟨0x5#4, 0#3, false, 0x00#8⟩
  | .rtmo => ⟨0x6#4, 0#3, false, 0x00#8⟩
  | .regcb d => ⟨0x7#4, 0#3, false, d⟩
  | .unregcb => ⟨0x8#4, 0#3, false, 0x00#8⟩
  | .enable => ⟨0x9#4, 0#3, false, 0x00#8⟩
  | .disable => ⟨0xA#4, 0#3, false, 0x00#8⟩
  | .ackst => ⟨0xB#4, 0#3, false, 0x00#8⟩

/-- An instruction is well-formed when its word's fields are legal (R78). -/
def Instr.wellFormed (i : Instr) : Bool := i.fields.wellFormed

end Sys2Proof
end

