-- ==== Sys2Proof/Decode.lean ====
section
/-! DEFINITION. The decoder of 30_encoding.md R81, total on every 16-bit word, from the opcode map of R79; a word that is no
operation is answered with the condition of R78 or R80 it breaks. After it the encoder, from the word format of R75. -/

namespace Sys2Proof

/-- The L field, w[8] (R75, R76). -/
def levelField (w : Word) : Bit := w.getLsbD 8

/-- The D field, w[7:0] (R75, R77). -/
def operandField (w : Word) : Byte := w.extractLsb' 0 8

/-- The RSV field, w[11:9] (R75). -/
def reservedField (w : Word) : BitVec 3 := w.extractLsb' 9 3

/-- The OP field, w[15:12] (R75). -/
def opField (w : Word) : BitVec 4 := w.extractLsb' 12 4

/-- The four fields of a word (R75). -/
def fieldsOf (w : Word) : WordFields := ⟨opField w, reservedField w, levelField w, operandField w⟩

/-- One row of the opcode map (R79): its name, its match and mask columns, and the operation made of the L and D fields. -/
structure OpcodeRow where
  mnemonic : String
  value : Word
  mask : Word
  operation : Bit → Byte → Instr

/-- The opcode map (R79), row by row. -/
def opcodeMap : List OpcodeRow :=
  [ ⟨"FALL", 0x1000#16, 0xFEFF#16, fun l _ => .fall l⟩,
    ⟨"RISE", 0x2000#16, 0xFEFF#16, fun l _ => .rise l⟩,
    ⟨"WRITE", 0x3000#16, 0xFF00#16, fun _ d => .write d⟩,
    ⟨"INHDONE", 0x4000#16, 0xFFFF#16, fun _ _ => .inhdone⟩,
    ⟨"READ", 0x5000#16, 0xFFFF#16, fun _ _ => .read⟩,
    ⟨"RTMO", 0x6000#16, 0xFFFF#16, fun _ _ => .rtmo⟩,
    ⟨"REGCB", 0x7000#16, 0xFF00#16, fun _ d => .regcb d⟩,
    ⟨"UNREGCB", 0x8000#16, 0xFFFF#16, fun _ _ => .unregcb⟩,
    ⟨"ENABLE", 0x9000#16, 0xFFFF#16, fun _ _ => .enable⟩,
    ⟨"DISABLE", 0xA000#16, 0xFFFF#16, fun _ _ => .disable⟩,
    ⟨"ACKST", 0xB000#16, 0xFFFF#16, fun _ _ => .ackst⟩ ]

/-- A word w selects a row when `(w and mask) = match` (R79). -/
def OpcodeRow.selects (r : OpcodeRow) (w : Word) : Bool := (w &&& r.mask) == r.value

/-- Why a word is ILLEGAL (R78, R80). The machine's answer is the same for all four (R218). -/
inductive IllegalReason where
  /-- OP is 0x0 or 0xC to 0xF. -/
  | reservedOp
  /-- RSV is not 000. -/
  | reservedBits
  /-- L = 1 in an operation other than FALL and RISE. -/
  | levelBit
  /-- D ≠ 0x00 in an operation other than WRITE and REGCB. -/
  | operandByte
  deriving DecidableEq, Repr

/-- The first condition of R78 and R80 that an illegal word breaks. -/
def illegalReason (w : Word) : IllegalReason :=
  if !(fieldsOf w).opAssigned then .reservedOp
  else if !(fieldsOf w).reservedClear then .reservedBits
  else if !(fieldsOf w).levelAllowed then .levelBit
  else .operandByte

/-- Decoding: the first row that the word selects, with L = w[8] and D = w[7:0], or ILLEGAL with its reason (R81). -/
def decode (w : Word) : Except IllegalReason Instr :=
  match opcodeMap.find? (fun r => r.selects w) with
  | some r => .ok (r.operation (levelField w) (operandField w))
  | none => .error (illegalReason w)

/-- A word from its fields, OP ++ RSV ++ L ++ D (R75). -/
def wordOf (f : WordFields) : Word := f.op ++ f.rsv ++ BitVec.ofBool f.level ++ f.operand

/-- The word of an instruction (R75, R79). -/
def encode (i : Instr) : Word := wordOf i.fields

/-- The host's view of the decoder: an operation is one 16-bit word (R82), so a longer row or a number with a bit above its row is
no operation. -/
def decodeTableWord (nbits w : Nat) : Option Instr :=
  if nbits ≤ 16 && w < 2 ^ nbits then
    match decode (BitVec.ofNat 16 w) with
    | .ok i => some i
    | .error _ => none
  else none

end Sys2Proof
end

