-- ==== Sys2Proof/Machine/State.lean ====
section
/-! DEFINITION. CORE's state record (10_state.md R20), its reset value (70_reset_and_hazards.md R270), and the reasons a step can
stop. State is plain data. -/

namespace Sys2Proof.Machine

/-- Which state machine owns the clock edges: Read = 0, Write = 1 (R21, R90). -/
inductive Mode where
  | read
  | write
  deriving DecidableEq, Repr

/-- What CORE does to the clock line: Low = 0, Released = 1 (R27, R90). -/
inductive ClkDrive where
  | low
  | released
  deriving DecidableEq, Repr

/-- The result of the latest committed write: NONE = 0, PENDING = 1, ACK = 2, NACK = 3 (R35, R90). -/
inductive AckStatus where
  | none
  | pending
  | ack
  | nack
  deriving DecidableEq, Repr

/-- A completion of a waiting READ, DATA(b) or TIMEOUT: "These are the only two forms" (R36, R87). -/
inductive Completion where
  | data (b : Byte)
  | timeout
  deriving DecidableEq, Repr

/-- A reported event (R37, R88). -/
inductive Event where
  /-- FRAMING_START: read start bit ≠ 0 (R121). -/
  | framingStart
  /-- FRAMING_PARITY: read parity mismatch (R123). -/
  | framingParity
  /-- FRAMING_STOP: read stop bit ≠ 1 (R124). -/
  | framingStop
  /-- RESEND_NOT_IMPLEMENTED: abort-and-recover without a send path (R134). -/
  | resendNotImplemented
  /-- WRITE_ACK: ack check with L = 0 (R157). -/
  | writeAck
  /-- WRITE_NACK: ack check with L = 1 (R157). -/
  | writeNack
  /-- QUEUE_OVERFLOW: Enqueue with a full queue (R57). -/
  | queueOverflow
  deriving DecidableEq, Repr

/-- One invocation of the registered callback: the handle that received the byte, and the byte (R38, R89). -/
structure Delivery where
  handle : Byte
  byte : Byte
  deriving DecidableEq, Repr

/-- CORE's state. The fields from `mode` to `resp` are the record of R20, in its order and under its names. `cfg` and `input` are
the model's own (logs 1 and 2): R20 calls the first parameters, and the second is the environment's, next word first. -/
structure State where
  /-- `mode` (R21). -/
  mode : Mode
  /-- `rd_byte`, the read machine's accumulator (R23). -/
  rdByte : Byte
  /-- `rd_pos`, the wire position the read machine expects next; legal values 0 to 10 (R24). -/
  rdPos : BitVec 4
  /-- `wr_frame`, the frame being written (R25). -/
  wrFrame : Frame
  /-- `wr_pos`, the wire position to drive next, 11 the ack-sampling point; legal values 0 to 11 (R26). -/
  wrPos : BitVec 4
  /-- `clk_drive` (R27). -/
  clkDrive : ClkDrive
  /-- `dat_drive`, the level last driven onto the data line (R28). -/
  datDrive : Bit
  /-- `inh`, the inhibit phase (R29). -/
  inh : Bool
  /-- `inh_frame`, the frame waiting for its commit (R30). -/
  inhFrame : Frame
  /-- `cb_reg`, a callback is registered (R31). -/
  cbReg : Bool
  /-- `cb_handle`, its nonzero handle (R31). -/
  cbHandle : Byte
  /-- `enabled` (R32). -/
  enabled : Bool
  /-- `queue`, the received bytes, oldest first (R33). -/
  queue : List Byte
  /-- `rd_wait`, a READ waits for a byte (R34). -/
  rdWait : Bool
  /-- `ack_status` (R35). -/
  ackStatus : AckStatus
  /-- `rd_done`, completions of waiting READs, oldest first (R36). -/
  rdDone : List Completion
  /-- `obs`, reported events, oldest first (R37). -/
  obs : List Event
  /-- `cb_out`, callback deliveries, oldest first (R38). -/
  cbOut : List Delivery
  /-- `resp`, the response word of the most recent operation (R39). -/
  resp : Word
  /-- The parameters (R6, R9); no operation writes them. The model's own field (log 2). -/
  cfg : Params
  /-- The operation words the environment supplies, the next one first. The model's own field (log 1). -/
  input : List Word
  deriving DecidableEq, Repr

/-- The state right after reset of a machine with the given parameters: the table of R270, and no operation yet supplied (R273). -/
def State.resetWith (cfg : Params) : State where
  mode := .read
  rdByte := 0x00#8
  rdPos := 0#4
  wrFrame := 0x000#12
  wrPos := 0#4
  clkDrive := .released
  datDrive := true
  inh := false
  inhFrame := 0x000#12
  cbReg := false
  cbHandle := 0x00#8
  enabled := true
  queue := []
  rdWait := false
  ackStatus := .none
  rdDone := []
  obs := []
  cbOut := []
  resp := 0x0000#16
  cfg := cfg
  input := []

/-- The state right after reset (R270) of this hardware: SEND_PATH_IMPLEMENTED = true, the value R6 gives it, and QUEUE_CAP = ∞,
a DESIGN CHOICE where R9 leaves the value open (log 2). -/
def State.reset : State := State.resetWith ⟨true, .unbounded⟩

/-- Why the machine stops. CORE has no traps (R240), so no error of the spec is here. -/
inductive Fault where
  /-- Raised by FALL with `mode` = Read and `rd_pos` 11 to 15: no rule gives such an edge an effect (R120), no run from reset reaches it
  (R41 I1), and 93_implementation_defined.md row 22 says of a model in such a state "outside the spec (`fault`)". Safe (log 5). -/
  | readPositionUnreachable
  deriving DecidableEq, Repr

/-- Why the machine refuses an instruction. -/
inductive Refusal where
  /-- Raised by an arm of `exec` whose instruction has no meaning yet; no arm does so now. Safe. -/
  | notModelled (mnemonic : String)
  deriving DecidableEq, Repr

end Sys2Proof.Machine
end

