-- ==== Sys2Proof/Machine/Operands.lean ====
section
/-! DEFINITION. The operand forms: the bit store of the read machine, the Frame Codec's pure functions (40_frame_codec.md) and who
issues an operation (30_encoding.md R79). -/

namespace Sys2Proof.Machine

/-- Write bit i of a byte, the other bits unchanged: `rd_byte[i] <- L` (R122). -/
def storeBit (b : Byte) (i : Nat) (l : Bit) : Byte :=
  (b &&& ~~~(1#8 <<< i)) ||| ((BitVec.ofBool l).zeroExtend 8 <<< i)

/-- The number of 1 bits in a byte (R14). -/
def popcount (b : Byte) : Nat := (List.range 8).countP (fun i => b.getLsbD i)

/-- `parityOf(b) = not (popcount(b) mod 2)`, 1 when b has an even number of 1 bits (R100). -/
def parityOf (b : Byte) : Bit := !(popcount b % 2 == 1)

/-- `checkParity(b, p) = (p = parityOf(b))` (R101). -/
def checkParity (b : Byte) (p : Bit) : Bool := p == parityOf b

/-- `encodeWriteFrame(b) = 0 ++ 1 ++ parityOf(b) ++ b[7:0] ++ 0` (R102). -/
def encodeWriteFrame (b : Byte) : Frame :=
  0#1 ++ 1#1 ++ BitVec.ofBool (parityOf b) ++ b ++ 0#1

/-- The resend command byte, 0xFE, the only command byte CORE knows (R5, R131). -/
def resendByte : Byte := 0xFE#8

/-- The two execution contexts (R256). -/
inductive Context where
  | interrupt
  | ordinary
  deriving DecidableEq, Repr

/-- The context an operation runs in; no operation is refused because of it (R256). -/
def contextOf : Instr → Context
  | .fall _ | .rise _ | .inhdone | .rtmo => .interrupt
  | .write _ | .read | .regcb _ | .unregcb | .enable | .disable | .ackst => .ordinary

end Sys2Proof.Machine
end

