-- ==== Sys2Proof/Machine/Flags.lean ====
section
/-! DEFINITION. What CORE has in place of condition codes (10_state.md R42): the status codes of the response word, the encodings of
the enumerated fields and of the trace records (30_encoding.md R84 to R90), and the ack result. -/

namespace Sys2Proof.Machine

/-- The STATUS codes of a response or completion word (R86). -/
inductive Status where
  | ok
  | data
  | pending
  | timeout
  | notImplemented
  | configError
  | busy
  | illegal
  deriving DecidableEq, Repr

/-- The code of a STATUS; 8 to 15 are never produced (R86). -/
def statusCode : Status → BitVec 4
  | .ok => 0
  | .data => 1
  | .pending => 2
  | .timeout => 3
  | .notImplemented => 4
  | .configError => 5
  | .busy => 6
  | .illegal => 7

/-- `status[3:0] ++ 0000 ++ data[7:0]` (R84, R86). -/
def responseWord (st : Status) (data : Byte) : Word := statusCode st ++ 0#4 ++ data

/-- `mode` as a bit: Read = 0, Write = 1 (R90). -/
def modeBit : Mode → Bit
  | .read => false
  | .write => true

/-- `clk_drive` as the line level it asks for: Low = 0, Released = 1 (R90). -/
def clkLevel : ClkDrive → Bit
  | .low => false
  | .released => true

/-- The code of an ack status (R90). -/
def ackCode : AckStatus → BitVec 2
  | .none => 0
  | .pending => 1
  | .ack => 2
  | .nack => 3

/-- The ack result of a sample: 0 is ACK, 1 is NACK (R157). -/
def ackOfSample (l : Bit) : AckStatus := if l = false then .ack else .nack

/-- The event reported with the ack result (R157). -/
def ackEvent (l : Bit) : Event := if l = false then .writeAck else .writeNack

/-- The code of an event; 0x00 and 0x08 to 0xFF are never emitted (R88). -/
def eventCode : Event → Byte
  | .framingStart => 0x01
  | .framingParity => 0x02
  | .framingStop => 0x03
  | .resendNotImplemented => 0x04
  | .writeAck => 0x05
  | .writeNack => 0x06
  | .queueOverflow => 0x07

/-- A completion record in the response format (R87). -/
def completionWord : Completion → Word
  | .data b => responseWord .data b
  | .timeout => responseWord .timeout 0x00

/-- A delivery record, `handle ++ byte` (R89). -/
def deliveryWord (d : Delivery) : Word := d.handle ++ d.byte

/-- The three framing errors, the `kind` of AbortAndRecover (R130). -/
inductive FramingError where
  | start
  | parity
  | stop
  deriving DecidableEq, Repr

/-- The event that reports a framing error (R133, R241). -/
def framingEvent : FramingError → Event
  | .start => .framingStart
  | .parity => .framingParity
  | .stop => .framingStop

/-- Whether a queue of n bytes has room for one more: `n < QUEUE_CAP` (R55). -/
def hasRoom (cap : QueueCap) (n : Nat) : Bool :=
  match cap with
  | .unbounded => true
  | .bounded c _ => n < c

end Sys2Proof.Machine
end

