-- ==== Sys2Proof/Machine/Ops.lean ====
section
/-! DEFINITION. The operations the rules share: the pseudocode primitives of 00_scope.md R14, the receive queue (20_memory.md), the
line drives, SendPhase1, delivery, AbortAndRecover and the answer to an ILLEGAL word. CORE has no trap entry; these two are what it
has in its place (60_exceptions.md R240, R254), and there is no return from either (R255). -/

namespace Sys2Proof.Machine

/-- `respond(status, data)` (R86). -/
def respond (st : Status) (data : Byte) (s : State) : State := { s with resp := responseWord st data }

/-- `complete`: append to `rd_done` (R87). -/
def complete (c : Completion) (s : State) : State := { s with rdDone := s.rdDone ++ [c] }

/-- `emit`: append to `obs` (R88). -/
def emit (e : Event) (s : State) : State := { s with obs := s.obs ++ [e] }

/-- `deliver(b)`: append `(cb_handle, b)` to `cb_out` (R89). -/
def deliverToCallback (b : Byte) (s : State) : State := { s with cbOut := s.cbOut ++ [⟨s.cbHandle, b⟩] }

/-- `DriveClk(v)` (R53). -/
def driveClk (v : ClkDrive) (s : State) : State := { s with clkDrive := v }

/-- `DriveData(v)` (R53). -/
def driveData (v : Bit) (s : State) : State := { s with datDrive := v }

/-- Reset ReadState: `rd_byte <- 0x00; rd_pos <- 0` (R132). -/
def resetReadState (s : State) : State := { s with rdByte := 0x00, rdPos := 0 }

/-- Reset WriteState: `wr_frame <- 0x000; wr_pos <- 0` (R157). -/
def resetWriteState (s : State) : State := { s with wrFrame := 0x000, wrPos := 0 }

/-- Enqueue(b): to the waiting READ, else to the tail of the queue, else dropped and reported (R55, R57). -/
def enqueue (b : Byte) (s : State) : State :=
  if s.rdWait then { complete (.data b) s with rdWait := false }
  else if hasRoom s.cfg.queueCap s.queue.length then { s with queue := s.queue ++ [b] }
  else emit .queueOverflow s

/-- Dequeue(): the oldest byte and the state without it; none when the queue is empty, where no rule calls it (R56). -/
def dequeue (s : State) : Option (Byte × State) :=
  match s.queue with
  | [] => none
  | b :: rest => some (b, { s with queue := rest })

/-- Flush: `queue <- []` (R58). -/
def flush (s : State) : State := { s with queue := [] }

/-- Deliver(b): to the callback when one is registered and enabled, else to the queue (R125, R200). -/
def deliverByte (b : Byte) (s : State) : State :=
  if s.cbReg && s.enabled then deliverToCallback b s else enqueue b s

/-- SendPhase1(b): latch the frame, drive the clock low, begin the inhibit phase (R150). -/
def sendPhase1 (b : Byte) (s : State) : State :=
  driveClk .low { s with inhFrame := encodeWriteFrame b, inh := true }

/-- AbortAndRecover(kind): request the resend or report that it cannot be sent, reset ReadState, report the error, in this order
(R130 to R134). -/
def abortAndRecover (kind : FramingError) (s : State) : State :=
  emit (framingEvent kind)
    (resetReadState
      (if s.cfg.sendPathImplemented then sendPhase1 resendByte s else emit .resendNotImplemented s))

/-- The answer to an ILLEGAL word: `respond(ILLEGAL, 0x00)` and nothing else (R80, R218). -/
def respondIllegal (s : State) : State := respond .illegal 0x00 s

/-- The next operation word and the state without it; none when the environment has supplied no further word (R75, R273; log 1). -/
def fetch (s : State) : Option (Word × State) :=
  match s.input with
  | [] => none
  | w :: rest => some (w, { s with input := rest })

/-- The state in which the next fetch yields `w` (log 1). -/
def supplyWord (w : Word) (s : State) : State := { s with input := w :: s.input }

end Sys2Proof.Machine
end

