-- ==== Sys2Proof/Machine/ConsumerApi.lean ====
section
/-! DEFINITION. The Byte Delivery Channel's consumer operations and the read timer's expiry (44_consumer_api.md). -/

namespace Sys2Proof.Machine

/-- READ: BUSY while one waits, else the oldest byte, else wait (R210, R211). -/
def execRead (s : State) : Host.Outcome State Fault Refusal :=
  if s.rdWait then .next (respond .busy 0x00 s)
  else
    match dequeue s with
    | some (b, t) => .next (respond .data b t)
    | none => .next (respond .pending 0x00 { s with rdWait := true })

/-- RTMO: the waiting READ fails with TIMEOUT; with none waiting only the response (R212). -/
def execRtmo (s : State) : Host.Outcome State Fault Refusal :=
  .next (respond .ok 0x00 (if s.rdWait then complete .timeout { s with rdWait := false } else s))

/-- REGCB: handle 0x00 is refused with CONFIG_ERROR, any other is registered in place of the one before (R201). -/
def execRegcb (d : Byte) (s : State) : Host.Outcome State Fault Refusal :=
  if d = 0x00 then .next (respond .configError 0x00 s)
  else .next (respond .ok 0x00 { s with cbReg := true, cbHandle := d })

/-- UNREGCB (R202). -/
def execUnregcb (s : State) : Host.Outcome State Fault Refusal :=
  .next (respond .ok 0x00 { s with cbReg := false, cbHandle := 0x00 })

/-- ENABLE: a re-enable flushes the queue; nothing when already enabled (R203). -/
def execEnable (s : State) : Host.Outcome State Fault Refusal :=
  .next (respond .ok 0x00 (if s.enabled then s else { flush s with enabled := true }))

/-- DISABLE (R204). -/
def execDisable (s : State) : Host.Outcome State Fault Refusal :=
  .next (respond .ok 0x00 { s with enabled := false })

/-- ACKST: `respond(OK, zext_8(ack_status))` (R216). -/
def execAckst (s : State) : Host.Outcome State Fault Refusal :=
  .next (respond .ok ((ackCode s.ackStatus).zeroExtend 8) s)

end Sys2Proof.Machine
end

