-- ==== Sys2Proof/Machine/ReadMachine.lean ====
section
/-! DEFINITION. The Read State Machine (41_read_sm.md): the step of a Read-mode FALL at each wire position. -/

namespace Sys2Proof.Machine

/-- Start bit, `rd_pos` = 0 (R121). -/
def readStartBit (l : Bit) (s : State) : State :=
  if l = false then { s with rdPos := 1 } else abortAndRecover .start s

/-- Data bits, `rd_pos` 1 to 8 (R122). -/
def readDataBit (l : Bit) (s : State) : State :=
  { s with rdByte := storeBit s.rdByte (s.rdPos.toNat - 1) l, rdPos := s.rdPos + 1 }

/-- Parity bit, `rd_pos` = 9 (R123). -/
def readParityBit (l : Bit) (s : State) : State :=
  if checkParity s.rdByte l then { s with rdPos := 10 } else abortAndRecover .parity s

/-- Stop bit and completion, `rd_pos` = 10: the delivery first, the reset of ReadState second (R124, R126). -/
def readStopBit (l : Bit) (s : State) : State :=
  if l = true then resetReadState (deliverByte s.rdByte s) else abortAndRecover .stop s

/-- `ReadBit(L)`: exactly one of the four, by `rd_pos` (R120). Its caller has `rd_pos` ≤ 10. -/
def readBit (l : Bit) (s : State) : State :=
  if s.rdPos = 0 then readStartBit l s
  else if s.rdPos ≤ 8 then readDataBit l s
  else if s.rdPos = 9 then readParityBit l s
  else readStopBit l s

end Sys2Proof.Machine
end

