-- ==== Sys2Proof/Machine/WriteMachine.lean ====
section
/-! DEFINITION. The Write State Machine (42_write_sm.md): WRITE, INHDONE, and the steps of a Write-mode edge. -/

namespace Sys2Proof.Machine

/-- WRITE (R152). -/
def execWrite (d : Byte) (s : State) : Host.Outcome State Fault Refusal :=
  if s.cfg.sendPathImplemented then .next (respond .ok 0x00 (sendPhase1 d s))
  else .next (respond .notImplemented 0x00 s)

/-- The commit of a pending write, steps 3 to 5 of the source's initiation as one (R153). -/
def commitWrite (s : State) : State :=
  { driveClk .released (driveData (s.inhFrame.getLsbD 0) (resetReadState s)) with
      mode := .write, wrFrame := s.inhFrame, wrPos := 1, inh := false, inhFrame := 0x000, ackStatus := .pending }

/-- INHDONE (R153); with no inhibit pending only the response (R154). -/
def execInhdone (s : State) : Host.Outcome State Fault Refusal :=
  .next (respond .ok 0x00 (if s.inh then commitWrite s else s))

/-- WriteBit: drive the frame's bit at `wr_pos`, advance (R155). -/
def writeBit (s : State) : State :=
  { driveData (s.wrFrame.getLsbD s.wrPos.toNat) s with wrPos := s.wrPos + 1 }

/-- AckCheck(L): record and report the device's answer, reset WriteState, back to Read (R157). -/
def ackCheck (l : Bit) (s : State) : State :=
  { resetWriteState (emit (ackEvent l) { s with ackStatus := ackOfSample l }) with mode := .read }

end Sys2Proof.Machine
end

