-- ==== Sys2Proof/Machine/EdgeDispatch.lean ====
section
/-! DEFINITION. The Mode Controller and Edge Dispatcher (43_mode_dispatch.md): FALL and RISE. -/

namespace Sys2Proof.Machine

/-- FALL: the read machine in Read mode, the next bit of the frame in Write mode at positions 1 to 10, else nothing (R180, R156).
A Read-mode edge at `rd_pos` 11 to 15 stops (log 5). -/
def execFall (l : Bit) (s : State) : Host.Outcome State Fault Refusal :=
  match s.mode with
  | .read =>
    if s.rdPos ≤ 10 then .next (respond .ok 0x00 (readBit l s)) else .fault .readPositionUnreachable
  | .write => .next (respond .ok 0x00 (if 1 ≤ s.wrPos ∧ s.wrPos ≤ 10 then writeBit s else s))

/-- RISE: the ack check in Write mode at position 11, else nothing (R181). -/
def execRise (l : Bit) (s : State) : Host.Outcome State Fault Refusal :=
  .next (respond .ok 0x00 (if s.mode = .write ∧ s.wrPos = 11 then ackCheck l s else s))

end Sys2Proof.Machine
end

