-- ==== Sys2Proof/Machine/Dispatch.lean ====
section
/-! DEFINITION. One arm per operation of the opcode map (30_encoding.md R79). -/

namespace Sys2Proof.Machine

def exec (i : Instr) (s : State) : Host.Outcome State Fault Refusal :=
  match i with
  | .fall l => Sys2Proof.Machine.execFall l s
  | .rise l => Sys2Proof.Machine.execRise l s
  | .write d => Sys2Proof.Machine.execWrite d s
  | .inhdone => Sys2Proof.Machine.execInhdone s
  | .read => Sys2Proof.Machine.execRead s
  | .rtmo => Sys2Proof.Machine.execRtmo s
  | .regcb d => Sys2Proof.Machine.execRegcb d s
  | .unregcb => Sys2Proof.Machine.execUnregcb s
  | .enable => Sys2Proof.Machine.execEnable s
  | .disable => Sys2Proof.Machine.execDisable s
  | .ackst => Sys2Proof.Machine.execAckst s

end Sys2Proof.Machine
end

