-- ==== Sys2Proof/Machine/Step.lean ====
section
/-! DEFINITION. One step: CORE applies the next operation word, atomically (00_scope.md R16, 30_encoding.md R75). -/

namespace Sys2Proof.Machine

/-- Apply one operation word: the operation it decodes to, or the answer to an ILLEGAL word (R81, R218). -/
def applyWord (w : Word) (s : State) : Host.Outcome State Fault Refusal :=
  match decode w with
  | .ok i => exec i s
  | .error _ => .next (respondIllegal s)

/-- One step applies the next supplied word; CORE does nothing until one arrives (R273; log 1). -/
def step (s : State) : Host.Outcome State Fault Refusal :=
  match fetch s with
  | some (w, t) => applyWord w t
  | none => .next s

/-- `s` with the operation word `w` as the next one its environment supplies. -/
def State.withFetchWord (s : State) (nbits w : Nat) : State := supplyWord (BitVec.ofNat 16 (w % 2 ^ nbits)) s

end Sys2Proof.Machine
end

