-- ==== Sys2Proof/Machine/Asm.lean ====
section
/-! DEFINITION. The assembler syntax of 30_encoding.md R83: one operation a line, comments from `;`, and the two pseudo-operations.
Text is a list of characters. Blanks, empty lines and the case of hexadecimal digits are the model's choice (log 8). -/

namespace Sys2Proof.Machine

/-- `RXFRAME b`: the 11 words of a well-formed device-to-host frame (R83). -/
def rxFrame (b : Byte) : List Instr :=
  .fall false :: (List.range 8).map (fun i => Instr.fall (b.getLsbD i)) ++ [.fall (parityOf b), .fall true]

/-- `TXCLOCK`: the 10 words that clock the positions 1 to 10 of a write (R83). -/
def txClock : List Instr := List.replicate 10 (.fall false)

/-- A line of a program: an operation or a pseudo-operation (R83). -/
inductive AsmLine where
  | op (i : Instr)
  | rxframe (b : Byte)
  | txclock
  deriving DecidableEq, Repr

/-- The operations a line stands for (R83). -/
def expandLine : AsmLine → List Instr
  | .op i => [i]
  | .rxframe b => rxFrame b
  | .txclock => txClock

/-- The operation words of a program (R83). -/
def assemble (lines : List AsmLine) : List Word := (lines.flatMap expandLine).map encode

/-- The operations written without an operand (R83). -/
def bareMnemonics : List (List Char × AsmLine) :=
  [ ("INHDONE".toList, .op .inhdone), ("READ".toList, .op .read), ("RTMO".toList, .op .rtmo),
    ("UNREGCB".toList, .op .unregcb), ("ENABLE".toList, .op .enable), ("DISABLE".toList, .op .disable),
    ("ACKST".toList, .op .ackst), ("TXCLOCK".toList, .txclock) ]

/-- The operations written with the level 0 or 1 (R83). -/
def levelMnemonics : List (List Char × (Bit → AsmLine)) :=
  [ ("FALL".toList, fun l => .op (.fall l)), ("RISE".toList, fun l => .op (.rise l)) ]

/-- The operations written with a byte 0xHH (R83). -/
def byteMnemonics : List (List Char × (Byte → AsmLine)) :=
  [ ("WRITE".toList, fun d => .op (.write d)), ("REGCB".toList, fun d => .op (.regcb d)), ("RXFRAME".toList, .rxframe) ]

/-- The digits of `0xHH`, each at the place of its value (R83). -/
def hexDigits : List Char := "0123456789ABCDEF".toList

/-- A hexadecimal digit's value, its place in `hexDigits`; small letters read as capitals (log 8). -/
def hexDigit (digit : Char) : Option Nat := hexDigits.findIdx? (· == digit.toUpper)

/-- The level operand, l ∈ {0, 1} (R83). -/
def parseLevel : List Char → Option Bit
  | ['0'] => some false
  | ['1'] => some true
  | _ => none

/-- The byte operand, 0xHH (R83). -/
def parseByte : List Char → Option Byte
  | ['0', 'x', h, l] =>
    match hexDigit h, hexDigit l with
    | some a, some b => some (BitVec.ofNat 8 (16 * a + b))
    | _, _ => none
  | _ => none

/-- The blank-separated words of a text; `acc` is the word being read, reversed. -/
def tokensFrom (acc : List Char) : List Char → List (List Char)
  | [] => if acc = [] then [] else [acc.reverse]
  | c :: cs =>
    if c.isWhitespace then (if acc = [] then tokensFrom [] cs else acc.reverse :: tokensFrom [] cs)
    else tokensFrom (c :: acc) cs

/-- One line of text: none for a line that is no syntax of R83, no line for one that holds only a comment. -/
def parseLine (text : List Char) : Option (List AsmLine) :=
  match tokensFrom [] (text.takeWhile (· != ';')) with
  | [] => some []
  | [m] => (bareMnemonics.find? (fun r => r.1 == m)).map (fun r => [r.2])
  | [m, x] =>
    match levelMnemonics.find? (fun r => r.1 == m), byteMnemonics.find? (fun r => r.1 == m) with
    | some r, _ => (parseLevel x).map (fun l => [r.2 l])
    | none, some r => (parseByte x).map (fun d => [r.2 d])
    | none, none => none
  | _ => none

/-- A program's words from its lines of text, if every line has the syntax of R83. -/
def assembleText (lines : List (List Char)) : Option (List Word) :=
  (lines.mapM parseLine).map (fun ls => assemble ls.flatten)

end Sys2Proof.Machine
end

