-- ==== Sys2Proof/Safety.lean ====
section
/-! DEFINITION. What claims about whole runs speak of: the invariants of 10_state.md R41 and the legal values of R20, runs over a
list of words, the timed runs in which CORE's two timers keep their bounds (70_reset_and_hazards.md R280, R285), the level the line
model gives an edge (00_scope.md R10), and several independent ports (60_exceptions.md R258). No rule of CORE depends on this file. -/

namespace Sys2Proof.Machine

/-! ## Invariants -/

/-- I1: `rd_pos` ≤ 10 and `wr_pos` ≤ 11 (R41). -/
abbrev PositionsInRange (s : State) : Prop := s.rdPos ≤ 10 ∧ s.wrPos ≤ 11

/-- I2: in Read mode WriteState is empty (R41). -/
abbrev ReadModeWriteStateEmpty (s : State) : Prop := s.mode = .read → s.wrPos = 0 ∧ s.wrFrame = 0x000

/-- I3: in Write mode ReadState is empty, 1 ≤ `wr_pos` ≤ 11 and the ack is pending (R41). -/
abbrev WriteModeReadStateEmpty (s : State) : Prop :=
  s.mode = .write → s.rdPos = 0 ∧ s.rdByte = 0x00 ∧ 1 ≤ s.wrPos ∧ s.wrPos ≤ 11 ∧ s.ackStatus = .pending

/-- I4: the clock is driven low exactly during the inhibit phase (R41). -/
abbrev ClockLowIffInhibit (s : State) : Prop := s.clkDrive = .low ↔ s.inh = true

/-- I5: no frame waits outside the inhibit phase (R41). -/
abbrev NoFrameWithoutInhibit (s : State) : Prop := s.inh = false → s.inhFrame = 0x000

/-- I6: while a READ waits the queue is empty (R41). -/
abbrev WaitingReadQueueEmpty (s : State) : Prop := s.rdWait = true → s.queue = []

/-- I7: the bits of `rd_byte` not yet received are 0 (R41). -/
abbrev UnreceivedBitsZero (s : State) : Prop :=
  (1 ≤ s.rdPos ∧ s.rdPos ≤ 8 → s.rdByte >>> (s.rdPos.toNat - 1) = 0x00) ∧ (s.rdPos = 0 → s.rdByte = 0x00)

/-- I8: no callback is registered exactly when the handle is 0x00 (R41). -/
abbrev HandleZeroIffNoCallback (s : State) : Prop := s.cbReg = false ↔ s.cbHandle = 0x00

/-- I9: bit 11 of both frames is 0 (R41). -/
abbrev FrameBit11Zero (s : State) : Prop := s.wrFrame.getLsbD 11 = false ∧ s.inhFrame.getLsbD 11 = false

/-- I10: in Write mode the data line carries the frame bit before `wr_pos` (R41). -/
abbrev DataLineCarriesFrameBit (s : State) : Prop :=
  s.mode = .write ∧ 1 ≤ s.wrPos ∧ s.wrPos ≤ 11 → s.datDrive = s.wrFrame.getLsbD (s.wrPos.toNat - 1)

/-- The invariants I1 to I10 of R41. -/
structure StateInv (s : State) : Prop where
  positions : PositionsInRange s
  readMode : ReadModeWriteStateEmpty s
  writeMode : WriteModeReadStateEmpty s
  clockLow : ClockLowIffInhibit s
  noFrame : NoFrameWithoutInhibit s
  waiting : WaitingReadQueueEmpty s
  unreceived : UnreceivedBitsZero s
  handle : HandleZeroIffNoCallback s
  bit11 : FrameBit11Zero s
  dataLine : DataLineCarriesFrameBit s

/-- A frame register's legal values: 0x000 or a value of `encodeWriteFrame` (R20). -/
def LegalFrame (f : Frame) : Prop := f = 0x000 ∨ ∃ b, f = encodeWriteFrame b

/-- A queue of n bytes is within QUEUE_CAP (R20, R33). -/
def WithinCapacity (cap : QueueCap) (n : Nat) : Prop :=
  match cap with
  | .unbounded => True
  | .bounded c _ => n ≤ c

/-- A response word of R86, in the format of R84: bits 11 to 8 are 0; STATUS is a code that a response can have, which TIMEOUT and 8 to 15
are not; DATA is a byte for DATA, an ack status for OK (0 unless the operation is ACKST), and 0x00 for every other STATUS. -/
def LegalResponse (r : Word) : Prop :=
  r.extractLsb' 8 4 = 0#4 ∧ r.extractLsb' 12 4 ∈ [0#4, 1#4, 2#4, 4#4, 5#4, 6#4, 7#4] ∧
  (r.extractLsb' 12 4 = 0#4 → r.extractLsb' 0 8 ≤ 0x03#8) ∧
  (r.extractLsb' 12 4 ∉ [0#4, 1#4] → r.extractLsb' 0 8 = 0x00#8)

/-- The "legal values" column of R20, where it says more than the field's type. -/
structure LegalValues (s : State) : Prop where
  positions : PositionsInRange s
  wrFrame : LegalFrame s.wrFrame
  inhFrame : LegalFrame s.inhFrame
  handle : s.cbHandle = 0x00 → s.cbReg = false
  queue : WithinCapacity s.cfg.queueCap s.queue.length
  resp : LegalResponse s.resp

/-! ## Runs -/

/-- Apply words one after another (R16, R62), stopping at the first stop. -/
def runWords : List Word → State → Host.Outcome State Fault Refusal
  | [], s => .next s
  | w :: ws, s =>
    match applyWord w s with
    | .next t => runWords ws t
    | .fault r => .fault r
    | .refused r => .refused r

/-- Apply operations one after another. -/
def runOps : List Instr → State → Host.Outcome State Fault Refusal
  | [], s => .next s
  | i :: is, s =>
    match exec i s with
    | .next t => runOps is t
    | .fault r => .fault r
    | .refused r => .refused r

/-- The states that runs from reset reach, over all parameters and all inputs (R41). -/
inductive Reachable : State → Prop where
  | reset (cfg : Params) (ops : List Word) : Reachable { State.resetWith cfg with input := ops }
  | step (s t : State) (h : Reachable s) (hs : step s = .next t) : Reachable t

/-- The state after the first n words of an endless input. -/
def stateAt (env : Nat → Word) (s : State) : Nat → Host.Outcome State Fault Refusal
  | 0 => .next s
  | n + 1 =>
    match stateAt env s n with
    | .next t => applyWord (env n) t
    | .fault r => .fault r
    | .refused r => .refused r

/-- The read timer's fairness: a READ does not wait for ever without an RTMO (R285). -/
def ReadTimerFair (env : Nat → Word) (s : State) : Prop :=
  ∀ n, (∀ m, n ≤ m → ∀ t, stateAt env s m = .next t → t.rdWait = true) → ∃ m, n ≤ m ∧ decode (env m) = .ok .rtmo

/-! ## Timed runs -/

/-- A Read-mode FALL with this sample is a framing error (R121, R123, R124). -/
def isFramingError (l : Bit) (s : State) : Bool :=
  (s.rdPos == 0 && l) || (s.rdPos == 9 && !checkParity s.rdByte l) || (s.rdPos == 10 && !l)

/-- SendPhase1 runs in this operation: it (re)starts the inhibit timer (R150, R259). -/
def startsInhibit (i : Instr) (s : State) : Bool :=
  s.cfg.sendPathImplemented &&
    match i with
    | .write _ => true
    | .fall l => s.mode == .read && isFramingError l s
    | .rise _ | .inhdone | .read | .rtmo | .regcb _ | .unregcb | .enable | .disable | .ackst => false

/-- This operation is a READ that begins to wait: it starts the read timer (R210, R259). -/
def startsReadTimer (i : Instr) (s : State) : Bool := i == .read && !s.rdWait && s.queue == []

/-- An operation at a time in microseconds. -/
structure TimedOp where
  time : Nat
  op : Instr
  deriving DecidableEq, Repr

/-- CORE's two timers as R259 gives them: the current time, and since when each runs, if it does. -/
structure Timers where
  now : Nat
  inhibitSince : Option Nat
  readSince : Option Nat
  deriving DecidableEq, Repr

/-- Both timers are stopped at reset (R270). -/
def Timers.atReset : Timers := ⟨0, none, none⟩

/-- The environment may issue the operation now: time does not run back, a running timer alone expires, and neither expires before
its bound (R280, R285). -/
def Timers.allow (c : Timers) (o : TimedOp) : Prop :=
  c.now ≤ o.time ∧
  (o.op = .inhdone → ∃ since, c.inhibitSince = some since ∧ since + Config.tInhibitUs ≤ o.time) ∧
  (o.op = .rtmo → ∃ since, c.readSince = some since ∧ since + Config.readTimeoutUs ≤ o.time)

/-- The timers after an operation takes s to t: the inhibit timer starts at every SendPhase1 and stops at INHDONE; the read timer
starts at a READ that waits and stops when that READ is completed, by RTMO or by an Enqueue (R259). -/
def Timers.after (c : Timers) (o : TimedOp) (s t : State) : Timers where
  now := o.time
  inhibitSince := if startsInhibit o.op s then some o.time else if o.op = .inhdone then none else c.inhibitSince
  readSince :=
    if startsReadTimer o.op s then some o.time else if s.rdDone.length < t.rdDone.length then none else c.readSince

/-- The timers and states that timed runs from reset reach when the timers keep their bounds. -/
inductive TimedReachable : Timers → State → Prop where
  | reset (cfg : Params) : TimedReachable Timers.atReset (State.resetWith cfg)
  | step (c : Timers) (s t : State) (o : TimedOp) (h : TimedReachable c s) (ha : c.allow o) (he : exec o.op s = .next t) :
      TimedReachable (c.after o s t) t

/-- A timed run: the operations at their times, from one pair of timers and state to another, each operation one the environment may
issue then (R280, R285). -/
inductive TimedRun : Timers → State → List TimedOp → Timers → State → Prop where
  | nil (c : Timers) (s : State) : TimedRun c s [] c s
  | cons (c c' : Timers) (s t u : State) (o : TimedOp) (os : List TimedOp) (ha : c.allow o) (he : exec o.op s = .next t)
      (h : TimedRun (c.after o s t) t os c' u) : TimedRun c s (o :: os) c' u

/-! ## The lines and several ports -/

/-- The level of the data line when the device drives `device` (R10). -/
def dataLevel (s : State) (device : Bit) : Bit := Config.lineModel s.datDrive device

/-- The level of the clock line when the device drives `device` (R10, R90). -/
def clockLevel (s : State) (device : Bit) : Bit := Config.lineModel (clkLevel s.clkDrive) device

/-- The falling edge a platform with this line model reports while the device drives `device` onto the data line (R52). -/
def fallSampling (s : State) (device : Bit) : Instr := .fall (dataLevel s device)

/-- Several COREs, each with the full state; one of them steps, and a port that is not there does nothing (R258; log 14). -/
def stepPort (k : Nat) (ports : List State) : Host.Outcome (List State) Fault Refusal :=
  match ports[k]? with
  | none => .next ports
  | some s =>
    match step s with
    | .next t => .next (ports.set k t)
    | .fault r => .fault r
    | .refused r => .refused r

end Sys2Proof.Machine
end

