-- ==== Sys2Proof/Certificates/Slice0/Obligations.lean ====
section
/-! DEFINITION. The statements for the provers, each a rule of the spec in terms of the model. An equation `exec i s = .next …` gives
the whole next state: a field it does not name is unchanged, so it is also the instruction's frame and its completion. -/

open Sys2Proof Sys2Proof.Machine

/-! ## Encodings -/

/-- Words written out from the encodings of R79 decode to the operations they stand for, and words of 95_test_vectors.md L2.6 that are
no operation do not decode. -/
def Obligations.DecodeReadsWordsOfTheSpec : Prop :=
  decode 0x1000#16 = .ok (.fall false) ∧ decode 0x1100#16 = .ok (.fall true) ∧
  decode 0x2100#16 = .ok (.rise true) ∧ decode 0x30ED#16 = .ok (.write 0xED) ∧
  decode 0x4000#16 = .ok .inhdone ∧ decode 0x5000#16 = .ok .read ∧ decode 0x6000#16 = .ok .rtmo ∧
  decode 0x70FF#16 = .ok (.regcb 0xFF) ∧ decode 0x8000#16 = .ok .unregcb ∧ decode 0x9000#16 = .ok .enable ∧
  decode 0xA000#16 = .ok .disable ∧ decode 0xB000#16 = .ok .ackst ∧
  ∀ w ∈ [0x0000#16, 0xC000#16, 0xFFFF#16, 0x1200#16, 0x1001#16, 0x3100#16, 0x4001#16, 0x7200#16, 0xB0FF#16],
    ∀ i, decode w ≠ .ok i

/-- Every instruction, with every operand, decodes from its word to itself (R79, R81). -/
def Obligations.DecodeOfEncodeIsTheInstruction : Prop := ∀ i : Instr, decode (encode i) = .ok i

/-- Every word that decodes is the word of the instruction it decodes to: no bit of a word is ignored (R78, R81). -/
def Obligations.EncodeOfDecodeIsTheWord : Prop := ∀ (w : Word) (i : Instr), decode w = .ok i → encode i = w

/-- At most one row of the opcode map matches any word (R79, R81). -/
def Obligations.AtMostOneOpcodeRowMatches : Prop :=
  ∀ w : Word, (opcodeMap.filter (fun r => r.selects w)).length ≤ 1

/-- The words that decode are exactly those that meet the legality conditions of R78 with an OP that R80 does not reserve. -/
def Obligations.DecodeAcceptsExactlyTheLegalWords : Prop :=
  ∀ w : Word, (∃ i, decode w = .ok i) ↔
    (w.extractLsb' 12 4 ∉ [0x0#4, 0xC#4, 0xD#4, 0xE#4, 0xF#4] ∧ w.extractLsb' 9 3 = 0#3 ∧
      (w.extractLsb' 12 4 ∉ [0x1#4, 0x2#4] → w.getLsbD 8 = false) ∧
      (w.extractLsb' 12 4 ∉ [0x3#4, 0x7#4] → w.extractLsb' 0 8 = 0x00#8))

/-- An ILLEGAL word, one whose fields break a condition of R78 or R80, responds 0x7000 and changes nothing else (R218). -/
def Obligations.IllegalWordOnlyResponds : Prop :=
  ∀ (s : State) (w : Word) (rest : List Word), (fieldsOf w).wellFormed = false → s.input = w :: rest →
    step s = .next { s with input := rest, resp := 0x7000#16 }

/-! ## The step -/

/-- A step takes the next word and runs the operation it decodes to (R75, R81). -/
def Obligations.StepRunsTheDecodedOperation : Prop :=
  ∀ (s : State) (w : Word) (rest : List Word) (i : Instr), s.input = w :: rest → decode w = .ok i →
    step s = exec i { s with input := rest }

/-- With an instruction's word as the next one supplied, the very next step runs that instruction on the state as it was. -/
def Obligations.SuppliedWordRunsNext : Prop :=
  ∀ (s : State) (i : Instr), step (s.withFetchWord 16 (encode i).toNat) = exec i s

/-- With no word supplied a step changes nothing (R273; that such a step exists is the model's choice, log 1). -/
def Obligations.StepIdlesWithoutInput : Prop := ∀ s : State, s.input = [] → step s = .next s

/-- Every operation completes, but for a Read-mode FALL at an `rd_pos` beyond 10. -/
def Obligations.EveryOperationCompletes : Prop :=
  ∀ (i : Instr) (s : State), (∀ l, i = .fall l → s.mode = .read → s.rdPos ≤ 10) → ∃ t, exec i s = .next t

/-! ## Frame Codec -/

/-- R100: the parity bit is the complement of the exclusive or of the byte's bits, makes the count of 1 bits odd, and is bit 9 of the
byte's frame. -/
def Obligations.ParityBitMakesTheCountOdd : Prop :=
  (∀ b : Byte, (popcount b + (parityOf b).toNat) % 2 = 1 ∧
    parityOf b = (true ^^ b.getLsbD 0 ^^ b.getLsbD 1 ^^ b.getLsbD 2 ^^ b.getLsbD 3 ^^ b.getLsbD 4 ^^ b.getLsbD 5 ^^
      b.getLsbD 6 ^^ b.getLsbD 7) ∧
    (encodeWriteFrame b).getLsbD 9 = parityOf b) ∧
  parityOf 0x00 = true ∧ parityOf 0xFF = true ∧ parityOf 0x01 = false ∧ parityOf 0x80 = false ∧ parityOf 0x41 = true

/-- R101: the check holds exactly when data and parity have an odd count; one flipped bit of the nine makes it fail, two restore it. -/
def Obligations.ParityCheckCatchesOneFlippedBit : Prop :=
  ∀ (b : Byte) (p : Bit),
    (checkParity b p = true ↔ p = parityOf b) ∧
    (checkParity b p = true ↔ (popcount b + p.toNat) % 2 = 1) ∧
    checkParity b (!p) = !checkParity b p ∧
    (∀ i, i < 8 → checkParity (b ^^^ (1#8 <<< i)) p = !checkParity b p ∧ checkParity (b ^^^ (1#8 <<< i)) (!p) = checkParity b p) ∧
    ∀ i j, i < 8 → j < 8 → i ≠ j → checkParity (b ^^^ (1#8 <<< i) ^^^ (1#8 <<< j)) p = checkParity b p

/-- R102: the frame's bits, its value, its range, and that it determines the byte. -/
def Obligations.WriteFrameLayout : Prop :=
  ∀ b : Byte,
    (encodeWriteFrame b).getLsbD 0 = false ∧ (∀ i, i < 8 → (encodeWriteFrame b).getLsbD (i + 1) = b.getLsbD i) ∧
    (encodeWriteFrame b).getLsbD 9 = parityOf b ∧ (encodeWriteFrame b).getLsbD 10 = true ∧
    (encodeWriteFrame b).getLsbD 11 = false ∧
    encodeWriteFrame b = 0x400#12 ||| ((BitVec.ofBool (parityOf b)).zeroExtend 12 <<< 9) ||| (b.zeroExtend 12 <<< 1) ∧
    0x402#12 ≤ encodeWriteFrame b ∧ encodeWriteFrame b ≤ 0x7FE#12 ∧ (encodeWriteFrame b).extractLsb' 1 8 = b ∧
    encodeWriteFrame 0x41 = 0x682#12

/-- RXFRAME is the eleven samples of the frame's bits 0 to 10, and TXCLOCK is ten FALL 0 (R83). -/
def Obligations.PseudoOperationsExpand : Prop :=
  (∀ b : Byte, rxFrame b = (List.range 11).map (fun i => Instr.fall ((encodeWriteFrame b).getLsbD i))) ∧
  (assemble [.txclock] = List.replicate 10 0x1000#16) ∧
  ∀ b : Byte, (assemble [.rxframe b]).length = 11

/-! ## Read machine -/

/-- R121: a start bit of 0 advances to position 1; a start bit of 1 aborts (what an abort does: FramingErrorAbortsAndRecovers). -/
def Obligations.FallAtStartBit : Prop :=
  ∀ s : State, s.mode = .read → s.rdPos = 0 →
    exec (.fall false) s = .next { s with rdPos := 1, resp := 0x0000 } ∧
    exec (.fall true) s = .next (respond .ok 0x00 (abortAndRecover .start s))

/-- R122: a data sample is stored at bit `rd_pos` - 1, the other bits unchanged, and the position advances. -/
def Obligations.FallAtDataBit : Prop :=
  ∀ (s : State) (l : Bit), s.mode = .read → 1 ≤ s.rdPos → s.rdPos ≤ 8 →
    ∃ b : Byte, exec (.fall l) s = .next { s with rdByte := b, rdPos := s.rdPos + 1, resp := 0x0000 } ∧
      b.getLsbD (s.rdPos.toNat - 1) = l ∧ ∀ j, j ≠ s.rdPos.toNat - 1 → b.getLsbD j = s.rdByte.getLsbD j

/-- R123: a parity sample that checks advances to position 10; another aborts. -/
def Obligations.FallAtParityBit : Prop :=
  ∀ (s : State) (l : Bit), s.mode = .read → s.rdPos = 9 →
    (l = parityOf s.rdByte → exec (.fall l) s = .next { s with rdPos := 10, resp := 0x0000 }) ∧
    (l ≠ parityOf s.rdByte → exec (.fall l) s = .next (respond .ok 0x00 (abortAndRecover .parity s)))

/-- R124: a stop sample of 1 delivers the accumulated byte and resets ReadState; a stop sample of 0 aborts and delivers nothing. -/
def Obligations.FallAtStopBit : Prop :=
  ∀ s : State, s.mode = .read → s.rdPos = 10 →
    exec (.fall true) s = .next { deliverByte s.rdByte s with rdByte := 0x00, rdPos := 0, resp := 0x0000 } ∧
    exec (.fall false) s = .next (respond .ok 0x00 (abortAndRecover .stop s))

/-- R125, R55, R57, R200: a completed byte goes to the callback when one is registered and enabled, else to the waiting READ, else to
the tail of the queue, and is dropped with a report when the queue is full. -/
def Obligations.CompletedByteIsDelivered : Prop :=
  ∀ s : State, s.mode = .read → s.rdPos = 10 →
    (s.cbReg = true → s.enabled = true →
      exec (.fall true) s = .next { s with
        cbOut := s.cbOut ++ [⟨s.cbHandle, s.rdByte⟩], rdByte := 0x00, rdPos := 0, resp := 0x0000 }) ∧
    ((s.cbReg = false ∨ s.enabled = false) → s.rdWait = true →
      exec (.fall true) s = .next { s with
        rdDone := s.rdDone ++ [.data s.rdByte], rdWait := false, rdByte := 0x00, rdPos := 0, resp := 0x0000 }) ∧
    ((s.cbReg = false ∨ s.enabled = false) → s.rdWait = false →
      (∀ cap h, s.cfg.queueCap = .bounded cap h → s.queue.length < cap) →
      exec (.fall true) s = .next { s with
        queue := s.queue ++ [s.rdByte], rdByte := 0x00, rdPos := 0, resp := 0x0000 }) ∧
    ((s.cbReg = false ∨ s.enabled = false) → s.rdWait = false →
      (∃ cap h, s.cfg.queueCap = .bounded cap h ∧ cap ≤ s.queue.length) →
      exec (.fall true) s = .next { s with
        obs := s.obs ++ [.queueOverflow], rdByte := 0x00, rdPos := 0, resp := 0x0000 })

/-- R130 to R135: every framing error, whatever was pending, requests the resend 0xFE (replacing a pending write) or reports that it
cannot, resets ReadState, and reports its kind, in this order; the consumer sees nothing of it. -/
def Obligations.FramingErrorAbortsAndRecovers : Prop :=
  ∀ (s : State) (l : Bit) (e : Event), s.mode = .read →
    (s.rdPos = 0 ∧ l = true ∧ e = .framingStart ∨ s.rdPos = 9 ∧ checkParity s.rdByte l = false ∧ e = .framingParity ∨
      s.rdPos = 10 ∧ l = false ∧ e = .framingStop) →
    (s.cfg.sendPathImplemented = true →
      exec (.fall l) s = .next { s with
        inhFrame := 0x5FC, clkDrive := .low, inh := true, rdByte := 0x00, rdPos := 0, obs := s.obs ++ [e], resp := 0x0000 }) ∧
    (s.cfg.sendPathImplemented = false →
      exec (.fall l) s = .next { s with
        rdByte := 0x00, rdPos := 0, obs := s.obs ++ [.resendNotImplemented, e], resp := 0x0000 })

/-- 93_implementation_defined.md row 22: a Read-mode FALL at the unreachable positions 11 to 15 stops (log 5). -/
def Obligations.FallBeyondStopBitStops : Prop :=
  ∀ (s : State) (l : Bit), s.mode = .read → 10 < s.rdPos → exec (.fall l) s = .fault .readPositionUnreachable

/-- R104: eleven samples, the first at `rd_pos` = 0, deliver the byte they carry exactly when start, parity and stop are right; when
they are not, nothing is delivered, completed, queued or reported as an overflow. The bits of a byte's frame deliver that byte. -/
def Obligations.ElevenSamplesDeliverExactlyGoodFrames : Prop :=
  ∀ (s : State) (start : Bit) (b : Byte) (p stop : Bit), s.mode = .read → s.rdPos = 0 →
    (start = false ∧ checkParity b p = true ∧ stop = true →
      runOps (.fall start :: (List.range 8).map (fun i => Instr.fall (b.getLsbD i)) ++ [.fall p, .fall stop]) s =
        .next (respond .ok 0x00 (deliverByte b { s with rdByte := 0x00 }))) ∧
    (¬(start = false ∧ checkParity b p = true ∧ stop = true) →
      ∃ t, runOps (.fall start :: (List.range 8).map (fun i => Instr.fall (b.getLsbD i)) ++ [.fall p, .fall stop]) s = .next t ∧
        t.mode = .read ∧ t.queue = s.queue ∧ t.cbOut = s.cbOut ∧ t.rdDone = s.rdDone ∧ t.rdWait = s.rdWait ∧
        t.obs.count .queueOverflow = s.obs.count .queueOverflow) ∧
    runOps ((List.range 11).map (fun i => Instr.fall ((encodeWriteFrame b).getLsbD i))) s =
      .next (respond .ok 0x00 (deliverByte b { s with rdByte := 0x00 }))

/-- L1-2, R56: well-formed frames received one after another, with no callback in force, no READ waiting and room in the queue, put
exactly their bytes at the queue's tail, in order. -/
def Obligations.FramesAreQueuedInOrder : Prop :=
  ∀ (bs : List Byte) (s : State), s.mode = .read → s.rdPos = 0 → s.rdByte = 0x00 → s.resp = 0x0000 →
    (s.cbReg = false ∨ s.enabled = false) → s.rdWait = false →
    (∀ cap h, s.cfg.queueCap = .bounded cap h → s.queue.length + bs.length ≤ cap) →
    runOps (bs.flatMap rxFrame) s = .next { s with queue := s.queue ++ bs }

/-! ## Write machine -/

/-- R152 with R150: WRITE latches the frame, drives the clock low and begins the inhibit, or answers NOT_IMPLEMENTED. -/
def Obligations.WriteBeginsInhibit : Prop :=
  ∀ (s : State) (d : Byte),
    (s.cfg.sendPathImplemented = true →
      exec (.write d) s = .next { s with inhFrame := encodeWriteFrame d, clkDrive := .low, inh := true, resp := 0x0000 }) ∧
    (s.cfg.sendPathImplemented = false → exec (.write d) s = .next { s with resp := 0x4000 })

/-- R153, R154: INHDONE commits the pending write as one operation; with none pending it only responds. -/
def Obligations.InhdoneCommitsThePendingWrite : Prop :=
  ∀ s : State,
    (s.inh = true →
      exec .inhdone s = .next { s with
        mode := .write, rdByte := 0x00, rdPos := 0, wrFrame := s.inhFrame, datDrive := s.inhFrame.getLsbD 0, wrPos := 1,
        clkDrive := .released, inh := false, inhFrame := 0x000, ackStatus := .pending, resp := 0x0000 }) ∧
    (s.inh = false → exec .inhdone s = .next { s with resp := 0x0000 })

/-- R155, R156: a Write-mode FALL drives the frame's bit at `wr_pos` and advances at positions 1 to 10, and else only responds. -/
def Obligations.FallInWriteModeDrivesTheFrame : Prop :=
  ∀ (s : State) (l : Bit), s.mode = .write →
    (1 ≤ s.wrPos → s.wrPos ≤ 10 →
      exec (.fall l) s = .next { s with
        datDrive := s.wrFrame.getLsbD s.wrPos.toNat, wrPos := s.wrPos + 1, resp := 0x0000 }) ∧
    (s.wrPos = 0 ∨ 10 < s.wrPos → exec (.fall l) s = .next { s with resp := 0x0000 })

/-- R157, R181: a RISE in Write mode at position 11 records and reports the ack, resets WriteState and returns to Read; every other
RISE only responds. -/
def Obligations.RiseChecksTheAck : Prop :=
  ∀ s : State,
    (s.mode = .write → s.wrPos = 11 →
      exec (.rise false) s = .next { s with
        ackStatus := .ack, obs := s.obs ++ [.writeAck], wrFrame := 0x000, wrPos := 0, mode := .read, resp := 0x0000 } ∧
      exec (.rise true) s = .next { s with
        ackStatus := .nack, obs := s.obs ++ [.writeNack], wrFrame := 0x000, wrPos := 0, mode := .read, resp := 0x0000 }) ∧
    (s.mode = .read ∨ s.wrPos ≠ 11 → ∀ l, exec (.rise l) s = .next { s with resp := 0x0000 })

/-- R161: after WRITE b and INHDONE, from any state, the data line carries frame bit k after k falling edges, for k = 0 to 10,
whatever they sample, and the clock is released; the sample that counts is that of the RISE after the tenth. -/
def Obligations.DataLineCarriesTheFrame : Prop :=
  ∀ (s : State) (b : Byte) (samples : List Bit), s.cfg.sendPathImplemented = true → samples.length ≤ 10 →
    ∃ t, runOps (.write b :: .inhdone :: samples.map Instr.fall) s = .next t ∧
      t.datDrive = (encodeWriteFrame b).getLsbD samples.length ∧ t.wrPos.toNat = samples.length + 1 ∧
      t.mode = .write ∧ t.clkDrive = .released ∧ t.rdByte = 0x00 ∧ t.rdPos = 0 ∧
      (samples.length = 10 → ∀ l, ∃ u, exec (.rise l) t = .next u ∧ u.ackStatus = if l then .nack else .ack)

/-- A whole write, from any state (mid-read or mid-write too): WRITE, INHDONE, ten falling edges and the rising edge leave the ack
result, one report, both machines at rest and the lines released, and nothing else changed (R150 to R157). -/
def Obligations.WholeWriteEndsAtRest : Prop :=
  ∀ (s : State) (b : Byte) (samples : List Bit) (l : Bit), s.cfg.sendPathImplemented = true → samples.length = 10 →
    runOps (.write b :: .inhdone :: samples.map Instr.fall ++ [.rise l]) s = .next { s with
      mode := .read, rdByte := 0x00, rdPos := 0, wrFrame := 0x000, wrPos := 0, clkDrive := .released, datDrive := true,
      inh := false, inhFrame := 0x000, ackStatus := if l then .nack else .ack,
      obs := s.obs ++ [if l then .writeNack else .writeAck], resp := 0x0000 }

/-- R160: the latest write request is the one that reaches the wire: an older one, pending or on the wire at any position, leaves no
trace after the commit of the newer. -/
def Obligations.LatestWriteReachesTheWire : Prop :=
  ∀ (s : State) (a b : Byte) (samples : List Bit), s.cfg.sendPathImplemented = true →
    runOps [.write a, .write b] s = runOps [.write b] s ∧
    runOps (.write a :: .inhdone :: samples.map Instr.fall ++ [.write b, .inhdone]) s = runOps [.write b, .inhdone] s

/-- R151: without a send path the engine never enters the inhibit phase or Write mode. -/
def Obligations.StubSendPathStaysInReadMode : Prop :=
  ∀ s t : State, s.cfg.sendPathImplemented = false → s.inh = false → s.mode = .read → step s = .next t →
    t.cfg.sendPathImplemented = false ∧ t.inh = false ∧ t.mode = .read

/-! ## Mode Controller -/

/-- R182: the complete list of mode transitions, and reset's mode. -/
def Obligations.ModeChangesOnlyByCommitAndAck : Prop :=
  (∀ (i : Instr) (s t : State), exec i s = .next t → t.mode ≠ s.mode →
    (s.mode = .read ∧ t.mode = .write ∧ i = .inhdone ∧ s.inh = true) ∨
    (s.mode = .write ∧ t.mode = .read ∧ s.wrPos = 11 ∧ ∃ l, i = .rise l)) ∧
  (∀ s : State, s.inh = true → ∃ t, exec .inhdone s = .next t ∧ t.mode = .write ∧ t.wrPos = 1) ∧
  (∀ (s : State) (l : Bit), s.mode = .write → s.wrPos = 11 → ∃ t, exec (.rise l) s = .next t ∧ t.mode = .read) ∧
  ∀ cfg, (State.resetWith cfg).mode = .read

/-- R184: in Read mode every FALL is the read machine's step, which leaves WriteState and the data line alone, and every RISE does
nothing; in Write mode every FALL is the write continuation's, which leaves ReadState, the delivery channel and the traces alone, and a
RISE does something only at position 11, where it is the ack check. -/
def Obligations.OneMachineOwnsTheEdges : Prop :=
  (∀ (s : State) (l : Bit), s.mode = .read → s.rdPos ≤ 10 →
    exec (.fall l) s = .next (respond .ok 0x00 (readBit l s)) ∧ exec (.rise l) s = .next { s with resp := 0x0000 }) ∧
  (∀ (s : State) (l : Bit), s.mode = .write →
    exec (.fall l) s = .next (respond .ok 0x00 (if 1 ≤ s.wrPos ∧ s.wrPos ≤ 10 then writeBit s else s)) ∧
    exec (.rise l) s = .next (respond .ok 0x00 (if s.wrPos = 11 then ackCheck l s else s))) ∧
  ∀ (s t : State) (l : Bit),
    (s.mode = .read → exec (.fall l) s = .next t →
      t.wrFrame = s.wrFrame ∧ t.wrPos = s.wrPos ∧ t.datDrive = s.datDrive ∧ t.ackStatus = s.ackStatus ∧ t.mode = .read) ∧
    (s.mode = .read → exec (.rise l) s = .next t → t = { s with resp := 0x0000 }) ∧
    (s.mode = .write → exec (.fall l) s = .next t →
      t = { s with datDrive := t.datDrive, wrPos := t.wrPos, resp := 0x0000 }) ∧
    (s.mode = .write → s.wrPos ≠ 11 → exec (.rise l) s = .next t → t = { s with resp := 0x0000 })

/-- R185: only FALL and RISE read `mode`. Every other operation does the same in both modes, and leaves the mode it finds, but for a
commit, which sets Write. -/
def Obligations.OnlyEdgesReadTheMode : Prop :=
  ∀ (i : Instr) (s t : State) (m : Mode), (∀ l, i ≠ .fall l) → (∀ l, i ≠ .rise l) → exec i s = .next t →
    exec i { s with mode := m } = .next { t with mode := if i = .inhdone ∧ s.inh = true then .write else m }

/-- R52, R76: a FALL in Write mode and a RISE that is no ack check ignore the sampled level. -/
def Obligations.LevelIsReadOnlyWhereTheRulesSay : Prop :=
  ∀ (s : State) (l l' : Bit),
    (s.mode = .write → exec (.fall l) s = exec (.fall l') s) ∧
    (s.mode = .read ∨ s.wrPos ≠ 11 → exec (.rise l) s = exec (.rise l') s)

/-! ## Byte Delivery Channel and consumer operations -/

/-- R201: REGCB registers a nonzero handle, replacing any other, and answers CONFIG_ERROR for 0x00. -/
def Obligations.RegcbRegistersNonzeroHandles : Prop :=
  ∀ (s : State) (d : Byte),
    (d ≠ 0x00 → exec (.regcb d) s = .next { s with cbReg := true, cbHandle := d, resp := 0x0000 }) ∧
    (d = 0x00 → exec (.regcb d) s = .next { s with resp := 0x5000 })

/-- R202: UNREGCB clears the callback and always succeeds. -/
def Obligations.UnregcbClearsTheCallback : Prop :=
  ∀ s : State, exec .unregcb s = .next { s with cbReg := false, cbHandle := 0x00, resp := 0x0000 }

/-- R203, R58: ENABLE flushes the queue when it re-enables, and does nothing to an enabled channel. -/
def Obligations.EnableFlushesOnReenable : Prop :=
  ∀ s : State,
    (s.enabled = false → exec .enable s = .next { s with queue := [], enabled := true, resp := 0x0000 }) ∧
    (s.enabled = true → exec .enable s = .next { s with resp := 0x0000 })

/-- R204: DISABLE clears the enable flag and nothing else. -/
def Obligations.DisableClearsTheFlag : Prop :=
  ∀ s : State, exec .disable s = .next { s with enabled := false, resp := 0x0000 }

/-- R210, R211, R56: READ answers BUSY while one waits, else the oldest byte, which it removes, else begins to wait. -/
def Obligations.ReadServesTheOldestByte : Prop :=
  ∀ s : State,
    (s.rdWait = true → exec .read s = .next { s with resp := 0x6000 }) ∧
    (s.rdWait = false → ∀ b rest, s.queue = b :: rest →
      exec .read s = .next { s with queue := rest, resp := 0x1000 ||| b.zeroExtend 16 }) ∧
    (s.rdWait = false → s.queue = [] → exec .read s = .next { s with rdWait := true, resp := 0x2000 })

/-- R212: RTMO ends a waiting READ with a TIMEOUT record; with none waiting it only responds. -/
def Obligations.RtmoTimesOutTheWaitingRead : Prop :=
  ∀ s : State,
    (s.rdWait = true → exec .rtmo s = .next { s with rdWait := false, rdDone := s.rdDone ++ [.timeout], resp := 0x0000 }) ∧
    (s.rdWait = false → exec .rtmo s = .next { s with resp := 0x0000 })

/-- R216: ACKST responds with the ack status, 0 NONE, 1 PENDING, 2 ACK, 3 NACK, and changes nothing else. -/
def Obligations.AckstReadsTheAckStatus : Prop :=
  ∀ s : State, exec .ackst s = .next { s with
    resp := match s.ackStatus with
      | .none => 0x0000
      | .pending => 0x0001
      | .ack => 0x0002
      | .nack => 0x0003 }

/-- R60's third point: REGCB, UNREGCB, ENABLE, DISABLE and ACKST done twice in a row leave the state as doing them once. -/
def Obligations.ConsumerSetupIsIdempotent : Prop :=
  ∀ (i : Instr) (s t : State), ((∃ d, i = .regcb d) ∨ i = .unregcb ∨ i = .enable ∨ i = .disable ∨ i = .ackst) →
    exec i s = .next t → exec i t = .next t

/-- R60's second point, as far as the rules of the operations bear it out (log 15). A FALL is not idempotent, in either mode; and a
WRITE restarts the inhibit timer each time. On State alone, a RISE, an INHDONE and an RTMO done twice in a row leave what doing them once
leaves, as R154, R181 and R212 force, and so does the same WRITE (R150); two WRITEs of different bytes differ from the first alone.
R60's third point fixes the operand only for REGCB. Where the operand varies RISE is not idempotent: at the ack check, RISE with one level
and then with the other leaves another state than RISE with the other alone (R157, R181). -/
def Obligations.RepeatedEdgesTimersAndWrites : Prop :=
  (∀ m : Mode, ∃ s t u, s.mode = m ∧ exec (.fall false) s = .next t ∧ exec (.fall false) t = .next u ∧ t ≠ u) ∧
  (∀ (c : Timers) (s t u : State) (d : Byte) (x y : Nat), s.cfg.sendPathImplemented = true →
    exec (.write d) s = .next t → exec (.write d) t = .next u →
    (c.after ⟨x, .write d⟩ s t).inhibitSince = some x ∧
    ((c.after ⟨x, .write d⟩ s t).after ⟨y, .write d⟩ t u).inhibitSince = some y) ∧
  (∀ (i : Instr) (s t : State), ((∃ l, i = .rise l) ∨ i = .inhdone ∨ i = .rtmo ∨ ∃ d, i = .write d) →
    exec i s = .next t → exec i t = .next t) ∧
  (∀ (a b : Byte) (s t u : State), s.cfg.sendPathImplemented = true → a ≠ b →
    exec (.write a) s = .next t → exec (.write b) t = .next u → t ≠ u) ∧
  ∀ (s : State) (l : Bit), s.mode = .write → s.wrPos = 11 →
    ∃ t u v, exec (.rise l) s = .next t ∧ exec (.rise (!l)) t = .next u ∧ exec (.rise (!l)) s = .next v ∧ u ≠ v

/-- R214: the records of `rd_done` and the waiting READ together grow by one exactly at a READ that begins to wait, so every READ that
responded PENDING, and no other, gets one record. -/
def Obligations.OneRecordPerPendingRead : Prop :=
  ∀ (i : Instr) (s t : State), exec i s = .next t →
    t.rdDone.length + t.rdWait.toNat =
      s.rdDone.length + s.rdWait.toNat + (if i = .read ∧ t.resp = 0x2000 then 1 else 0)

/-- R285 with R214: with a fair read timer every waiting READ is completed, by exactly one record, whatever else the environment
supplies. -/
def Obligations.FairTimerEndsEveryWait : Prop :=
  ∀ (env : Nat → Word) (s : State), StateInv s → ReadTimerFair env s →
    ∀ n t, stateAt env s n = .next t → t.rdWait = true →
      ∃ m u c, n < m ∧ stateAt env s m = .next u ∧ u.rdWait = false ∧ u.rdDone = t.rdDone ++ [c]

/-! ## Responses, traces and ownership -/

/-- R85: edge and timer operations always respond 0x0000. -/
def Obligations.EdgeAndTimerOperationsRespondOk : Prop :=
  ∀ (i : Instr) (s t : State), i = .inhdone ∨ i = .rtmo ∨ (∃ l, i = .fall l ∨ i = .rise l) → exec i s = .next t →
    t.resp = 0x0000

/-- R84, R86: bits 11 to 8 of a response are 0, each STATUS is produced only by the operations R86 names, TIMEOUT and 8 to 15 by none,
and DATA is 0x00 but for READ's byte and ACKST's status. -/
def Obligations.ResponseWordFormat : Prop :=
  ∀ (w : Word) (s t : State), applyWord w s = .next t →
    t.resp.extractLsb' 8 4 = 0#4 ∧
    t.resp.extractLsb' 12 4 ∈ [0#4, 1#4, 2#4, 4#4, 5#4, 6#4, 7#4] ∧
    (t.resp.extractLsb' 12 4 = 1#4 → decode w = .ok .read ∧ s.queue.head? = some (t.resp.extractLsb' 0 8)) ∧
    (t.resp.extractLsb' 12 4 = 2#4 → decode w = .ok .read ∧ s.queue = []) ∧
    (t.resp.extractLsb' 12 4 = 4#4 → s.cfg.sendPathImplemented = false ∧ ∃ d, decode w = .ok (.write d)) ∧
    (t.resp.extractLsb' 12 4 = 5#4 → decode w = .ok (.regcb 0x00)) ∧
    (t.resp.extractLsb' 12 4 = 6#4 → decode w = .ok .read ∧ s.rdWait = true) ∧
    (t.resp.extractLsb' 12 4 = 7#4 ↔ ∀ i, decode w ≠ .ok i) ∧
    (t.resp.extractLsb' 0 8 ≠ 0x00#8 → t.resp.extractLsb' 12 4 = 1#4 ∨ decode w = .ok .ackst)

/-- R87, R88, R89, R90: the record formats and the codes of the enumerated fields. -/
def Obligations.RecordAndFieldEncodings : Prop :=
  (∀ b : Byte, completionWord (.data b) = 0x1000 ||| b.zeroExtend 16) ∧ completionWord .timeout = 0x3000 ∧
  eventCode .framingStart = 0x01 ∧ eventCode .framingParity = 0x02 ∧ eventCode .framingStop = 0x03 ∧
  eventCode .resendNotImplemented = 0x04 ∧ eventCode .writeAck = 0x05 ∧ eventCode .writeNack = 0x06 ∧
  eventCode .queueOverflow = 0x07 ∧ (∀ h b : Byte, deliveryWord ⟨h, b⟩ = h ++ b) ∧
  modeBit .read = false ∧ modeBit .write = true ∧ clkLevel .low = false ∧ clkLevel .released = true ∧
  ackCode .none = 0 ∧ ackCode .pending = 1 ∧ ackCode .ack = 2 ∧ ackCode .nack = 3

/-- R36, R37, R38: no operation removes or changes a trace entry. -/
def Obligations.TracesOnlyGrow : Prop :=
  ∀ s t : State, step s = .next t →
    (∃ cs, t.rdDone = s.rdDone ++ cs) ∧ (∃ es, t.obs = s.obs ++ es) ∧ ∃ ds, t.cbOut = s.cbOut ++ ds

/-- R250: what one operation reports: at most one framing error, with the missing resend before it or not; or the overflow in place of
a delivery; or an ack result, by a RISE alone; and nothing from any other operation. -/
def Obligations.OneErrorPerOperation : Prop :=
  ∀ (i : Instr) (s t : State), exec i s = .next t →
    ∃ es, t.obs = s.obs ++ es ∧
      (es ≠ [] → (∃ l, i = .fall l ∧ s.mode = .read) ∨ ∃ l, i = .rise l ∧ s.mode = .write) ∧
      (∀ l, i = .fall l →
        es ∈ [[], [.framingStart], [.framingParity], [.framingStop], [.queueOverflow], [.resendNotImplemented, .framingStart],
          [.resendNotImplemented, .framingParity], [.resendNotImplemented, .framingStop]]) ∧
      (∀ l, i = .rise l → es ∈ [[], [.writeAck], [.writeNack]]) ∧
      (es = [.queueOverflow] → t.queue = s.queue ∧ t.cbOut = s.cbOut ∧ t.rdDone = s.rdDone)

/-- R40: the operations that write each field; and no operation writes the parameters or the words still to come. -/
def Obligations.OnlyOwnersWriteAField : Prop :=
  ∀ (i : Instr) (s t : State), exec i s = .next t →
    (t.mode ≠ s.mode → i = .inhdone ∨ ∃ l, i = .rise l) ∧
    (t.rdByte ≠ s.rdByte ∨ t.rdPos ≠ s.rdPos → i = .inhdone ∨ ∃ l, i = .fall l ∧ s.mode = .read) ∧
    (t.wrFrame ≠ s.wrFrame ∨ t.wrPos ≠ s.wrPos →
      i = .inhdone ∨ (∃ l, i = .fall l ∧ s.mode = .write) ∨ ∃ l, i = .rise l) ∧
    (t.clkDrive ≠ s.clkDrive ∨ t.inh ≠ s.inh ∨ t.inhFrame ≠ s.inhFrame →
      (∃ d, i = .write d) ∨ i = .inhdone ∨ ∃ l, i = .fall l ∧ s.mode = .read) ∧
    (t.datDrive ≠ s.datDrive → i = .inhdone ∨ ∃ l, i = .fall l ∧ s.mode = .write) ∧
    (t.cbReg ≠ s.cbReg ∨ t.cbHandle ≠ s.cbHandle → (∃ d, i = .regcb d) ∨ i = .unregcb) ∧
    (t.enabled ≠ s.enabled → i = .enable ∨ i = .disable) ∧
    (t.queue ≠ s.queue → i = .read ∨ i = .enable ∨ ∃ l, i = .fall l ∧ s.mode = .read) ∧
    (t.rdWait ≠ s.rdWait → i = .read ∨ i = .rtmo ∨ ∃ l, i = .fall l ∧ s.mode = .read) ∧
    (t.ackStatus ≠ s.ackStatus → i = .inhdone ∨ ∃ l, i = .rise l) ∧
    (t.rdDone ≠ s.rdDone → i = .rtmo ∨ ∃ l, i = .fall l ∧ s.mode = .read) ∧
    (t.obs ≠ s.obs → (∃ l, i = .fall l) ∨ ∃ l, i = .rise l) ∧
    (t.cbOut ≠ s.cbOut → ∃ l, i = .fall l ∧ s.mode = .read) ∧
    t.cfg = s.cfg ∧ t.input = s.input

/-! ## Reset and invariants -/

/-- R270, R6: the reset table, whatever the parameters; and this hardware's SEND_PATH_IMPLEMENTED is true. -/
def Obligations.ResetTable : Prop :=
  (∀ cfg : Params, ∀ s : State, s = State.resetWith cfg →
    s.mode = .read ∧ s.rdByte = 0x00 ∧ s.rdPos = 0 ∧ s.wrFrame = 0x000 ∧ s.wrPos = 0 ∧ s.clkDrive = .released ∧
    s.datDrive = true ∧ s.inh = false ∧ s.inhFrame = 0x000 ∧ s.cbReg = false ∧ s.cbHandle = 0x00 ∧ s.enabled = true ∧
    s.queue = [] ∧ s.rdWait = false ∧ s.ackStatus = .none ∧ s.rdDone = [] ∧ s.obs = [] ∧ s.cbOut = [] ∧ s.resp = 0x0000 ∧
    s.cfg = cfg) ∧
  (∃ cfg, State.reset = State.resetWith cfg ∧ cfg.sendPathImplemented = true) ∧
  Timers.atReset.inhibitSince = none ∧ Timers.atReset.readSince = none

/-- R41 at reset: I1 to I10 hold, whatever the parameters and whatever words are supplied. -/
def Obligations.ResetMeetsTheInvariants : Prop :=
  ∀ (cfg : Params) (ops : List Word), StateInv { State.resetWith cfg with input := ops }

/-- R41: every step, from every state with I1 to I10, keeps I1 to I10. -/
def Obligations.StepKeepsTheInvariants : Prop := ∀ s t : State, StateInv s → step s = .next t → StateInv t

/-- R41: every state that runs from reset reach, on any input and with any parameters, meets I1 to I10; and none of these runs ever
stops. -/
def Obligations.RunsFromResetMeetTheInvariants : Prop := ∀ s : State, Reachable s → StateInv s ∧ ∃ t, step s = .next t

/-- R20's column of legal values, the response word's row among them: every step keeps it, and reset has it. -/
def Obligations.StepKeepsLegalValues : Prop :=
  (∀ s t : State, LegalValues s → step s = .next t → LegalValues t) ∧
  ∀ (cfg : Params) (ops : List Word), LegalValues { State.resetWith cfg with input := ops }

/-! ## Timed runs and ports -/

/-- R259, R252: in every timed run the inhibit timer runs exactly during the inhibit phase and the read timer exactly while a READ
waits. -/
def Obligations.TimersRunExactlyWhilePending : Prop :=
  ∀ (c : Timers) (s : State), TimedReachable c s →
    (c.inhibitSince.isSome = s.inh) ∧ (c.readSince.isSome = s.rdWait)

/-- R280, R285: the two timers over timed runs, in whole microseconds and with the environment that log 3 chooses. In a timed run from reset
an INHDONE that may come finds the inhibit phase and the clock low, and commits; an RTMO that may come finds a READ waiting, and times it
out. From a SendPhase1 on, in every state until the next INHDONE, the clock is held low, and that INHDONE comes no earlier than
T_INHIBIT_US, at least 100 µs, after it, whatever came between. From a READ that begins to wait on, in every state until that READ's
record, it waits, and an RTMO comes no earlier than READ_TIMEOUT_US after it, whatever came between. -/
def Obligations.TimersKeepTheirBounds : Prop :=
  (∀ (c : Timers) (s : State) (o : TimedOp), TimedReachable c s → c.allow o →
    (o.op = .inhdone → s.clkDrive = .low ∧ s.inh = true ∧ ∃ t, exec o.op s = .next t ∧ t.mode = .write ∧ t.clkDrive = .released) ∧
    (o.op = .rtmo → s.rdWait = true ∧ ∃ t, exec o.op s = .next t ∧ t.rdDone = s.rdDone ++ [.timeout])) ∧
  (∀ (c c' : Timers) (s t u : State) (o : TimedOp) (between : List TimedOp),
    startsInhibit o.op s = true → exec o.op s = .next t → TimedRun (c.after o s t) t between c' u →
    (∀ x ∈ between, x.op ≠ .inhdone) →
    u.clkDrive = .low ∧ u.inh = true ∧
      ∀ e : TimedOp, c'.allow e → e.op = .inhdone → o.time + Config.tInhibitUs ≤ e.time ∧ o.time + 100 ≤ e.time) ∧
  ∀ (c c' : Timers) (s t u : State) (o : TimedOp) (between : List TimedOp),
    startsReadTimer o.op s = true → exec o.op s = .next t → TimedRun (c.after o s t) t between c' u → u.rdDone = t.rdDone →
    u.rdWait = true ∧
      ∀ e : TimedOp, c'.allow e → e.op = .rtmo →
        o.time + Config.readTimeoutUs ≤ e.time ∧ o.time < e.time ∧
          ∃ v, exec e.op u = .next v ∧ v.rdDone = t.rdDone ++ [.timeout]

/-- R258: with several ports, a list of states that is the model's choice (log 14), a step of one port is `step` of that port's state, stops
when that stops, and leaves every other port as it was. -/
def Obligations.PortsShareNoState : Prop :=
  ∀ (k : Nat) (ports : List State) (s : State), ports[k]? = some s →
    (∀ t, step s = .next t → ∃ ports', stepPort k ports = .next ports' ∧ ports'.length = ports.length ∧
      ports'[k]? = some t ∧ ∀ j, j ≠ k → ports'[j]? = ports[j]?) ∧
    (∀ r, step s = .fault r → stepPort k ports = .fault r) ∧
    ∀ ports', stepPort k ports = .next ports' →
      ∃ t, step s = .next t ∧ ports'[k]? = some t ∧ ∀ j, j ≠ k → ports'[j]? = ports[j]?
end

