-- ==== Sys2Proof/Laws/Codec.lean ====
section
/-! SUPPORT. The Frame Codec and the bit store, bit by bit (40_frame_codec.md). -/

namespace Sys2Proof.Machine

/-- The bit stored is the bit read back, and the other bits are unchanged (R122). -/
theorem storeBit_getLsbD (b : Byte) (i j : Nat) (l : Bit) (hi : i < 8) :
    (storeBit b i l).getLsbD j = if j = i then l else b.getLsbD j := by
  rcases Nat.lt_or_ge j 8 with hj | hj
  · rcases Nat.lt_trichotomy j i with h | h | h
    · simp [storeBit, hj, h, Nat.ne_of_lt h]
    · subst h; cases l <;> simp [storeBit, hj]
    · simp [storeBit, hj, Nat.ne_of_gt h, show ¬ j < i by omega, show j - i ≠ 0 by omega]
  · simp [BitVec.getLsbD_of_ge _ _ hj, show j ≠ i by omega]

/-- A frame bit from the byte, by its position (R70). -/
theorem encodeWriteFrame_getLsbD (b : Byte) (i : Nat) :
    (encodeWriteFrame b).getLsbD i =
      if i = 0 then false else if i ≤ 8 then b.getLsbD (i - 1) else if i = 9 then parityOf b else decide (i = 10) := by
  simp only [encodeWriteFrame, BitVec.getLsbD_append]
  rcases Nat.lt_or_ge i 1 with h | h
  · simp [show i = 0 by omega]
  · rcases Nat.lt_or_ge i 9 with h9 | h9
    · simp [show ¬ i < 1 by omega, show i ≠ 0 by omega, show i - 1 < 8 by omega, show i ≤ 8 by omega]
    · rcases Nat.lt_or_ge i 12 with h12 | h12
      · obtain rfl | rfl | rfl : i = 9 ∨ i = 10 ∨ i = 11 := by omega
        · simp
        · simp
        · simp
      · simp [show ¬ i < 1 by omega, show ¬ i - 1 < 8 by omega, show ¬ i - 1 - 8 < 1 by omega,
          show ¬ i - 1 - 8 - 1 < 1 by omega, show i ≠ 0 by omega, show ¬ i ≤ 8 by omega, show i ≠ 9 by omega,
          show i ≠ 10 by omega]

@[simp] theorem encodeWriteFrame_start (b : Byte) : (encodeWriteFrame b)[0] = false := by
  rw [← BitVec.getLsbD_eq_getElem, encodeWriteFrame_getLsbD]; rfl

@[simp] theorem encodeWriteFrame_stop (b : Byte) : (encodeWriteFrame b)[10] = true := by
  rw [← BitVec.getLsbD_eq_getElem, encodeWriteFrame_getLsbD]; rfl

@[simp] theorem encodeWriteFrame_bit11 (b : Byte) : (encodeWriteFrame b)[11] = false := by
  rw [← BitVec.getLsbD_eq_getElem, encodeWriteFrame_getLsbD]; rfl

/-- The resend frame (R131). -/
theorem encodeWriteFrame_resendByte : encodeWriteFrame resendByte = 0x5FC#12 := by decide

/-- The three fields of a response word (R84, R86). -/
@[simp] theorem responseWord_status (st : Status) (d : Byte) : (responseWord st d).extractLsb' 12 4 = statusCode st := by
  apply BitVec.eq_of_getLsbD_eq
  intro i hi
  simp only [responseWord, BitVec.getLsbD_extractLsb', BitVec.getLsbD_append]
  simp [hi, show ¬ 12 + i < 8 by omega, show ¬ 12 + i - 8 < 4 by omega, show 12 + i - 8 - 4 = i by omega]

@[simp] theorem responseWord_zero (st : Status) (d : Byte) : (responseWord st d).extractLsb' 8 4 = 0#4 := by
  apply BitVec.eq_of_getLsbD_eq
  intro i hi
  simp only [responseWord, BitVec.getLsbD_extractLsb', BitVec.getLsbD_append]
  simp [hi, show ¬ 8 + i < 8 by omega]

@[simp] theorem responseWord_data (st : Status) (d : Byte) : (responseWord st d).extractLsb' 0 8 = d := by
  apply BitVec.eq_of_getLsbD_eq
  intro i hi
  simp only [responseWord, BitVec.getLsbD_extractLsb', BitVec.getLsbD_append]
  simp [hi]

theorem checkParity_iff (b : Byte) (p : Bit) : checkParity b p = true ↔ p = parityOf b := by
  simp [checkParity]

theorem hasRoom_iff (cap : QueueCap) (n : Nat) :
    hasRoom cap n = true ↔ ∀ c h, cap = .bounded c h → n < c := by
  cases cap with
  | unbounded => simp [hasRoom]
  | bounded c h => simp only [hasRoom, decide_eq_true_eq]; grind

end Sys2Proof.Machine
end

