-- ==== Sys2Proof/Laws/PerInstr.lean ====
section
/-! SUPPORT. Facts about every instruction as syntax, one lemma per constructor. `WellFormed`: its word's fields meet R78.
`FieldsOfWord`: the fields read back from its word are its fields (R75). -/

namespace Sys2Proof.Laws.WellFormed

/-- Every instruction is well-formed: its operand types admit only what the encoding has (R78). -/
def Statement (i : Instr) : Prop := i.wellFormed = true

theorem fall (l : Bit) : Statement (.fall l) := by cases l <;> rfl
theorem rise (l : Bit) : Statement (.rise l) := by cases l <;> rfl
theorem write (d : Byte) : Statement (.write d) := rfl
theorem inhdone : Statement .inhdone := rfl
theorem read : Statement .read := rfl
theorem rtmo : Statement .rtmo := rfl
theorem regcb (d : Byte) : Statement (.regcb d) := rfl
theorem unregcb : Statement .unregcb := rfl
theorem enable : Statement .enable := rfl
theorem disable : Statement .disable := rfl
theorem ackst : Statement .ackst := rfl

end Sys2Proof.Laws.WellFormed

namespace Sys2Proof.Laws.FieldsOfWord

/-- Assembling fields into a word and reading them back gives the same fields (R75). -/
theorem fieldsOf_wordOf (f : WordFields) : fieldsOf (wordOf f) = f := by
  obtain ⟨op, rsv, level, operand⟩ := f
  have h1 : opField (wordOf ⟨op, rsv, level, operand⟩) = op := by
    apply BitVec.eq_of_getLsbD_eq
    intro i hi
    simp only [opField, wordOf, BitVec.getLsbD_extractLsb', BitVec.getLsbD_append]
    simp [hi, show ¬(12 + i < 8) by omega, show ¬(12 + i - 8 < 1) by omega, show ¬(12 + i - 8 - 1 < 3) by omega,
      show 12 + i - 8 - 1 - 3 = i by omega]
  have h2 : reservedField (wordOf ⟨op, rsv, level, operand⟩) = rsv := by
    apply BitVec.eq_of_getLsbD_eq
    intro i hi
    simp only [reservedField, wordOf, BitVec.getLsbD_extractLsb', BitVec.getLsbD_append]
    simp [hi, show ¬(9 + i < 8) by omega, show ¬(9 + i - 8 < 1) by omega,
      show 9 + i - 8 - 1 = i by omega]
  have h3 : levelField (wordOf ⟨op, rsv, level, operand⟩) = level := by
    rw [levelField, wordOf, BitVec.getLsbD_append, BitVec.getLsbD_append]; simp
  have h4 : operandField (wordOf ⟨op, rsv, level, operand⟩) = operand := by
    apply BitVec.eq_of_getLsbD_eq
    intro i hi
    simp only [operandField, wordOf, BitVec.getLsbD_extractLsb', BitVec.getLsbD_append]
    simp [hi]
  simp only [fieldsOf, h1, h2, h3, h4]

/-- The fields read back from an instruction's word are its fields (R75, R79). -/
def Statement (i : Instr) : Prop := fieldsOf (encode i) = i.fields

theorem fall (l : Bit) : Statement (.fall l) := fieldsOf_wordOf _
theorem rise (l : Bit) : Statement (.rise l) := fieldsOf_wordOf _
theorem write (d : Byte) : Statement (.write d) := fieldsOf_wordOf _
theorem inhdone : Statement .inhdone := fieldsOf_wordOf _
theorem read : Statement .read := fieldsOf_wordOf _
theorem rtmo : Statement .rtmo := fieldsOf_wordOf _
theorem regcb (d : Byte) : Statement (.regcb d) := fieldsOf_wordOf _
theorem unregcb : Statement .unregcb := fieldsOf_wordOf _
theorem enable : Statement .enable := fieldsOf_wordOf _
theorem disable : Statement .disable := fieldsOf_wordOf _
theorem ackst : Statement .ackst := fieldsOf_wordOf _

end Sys2Proof.Laws.FieldsOfWord
end

