-- ==== Sys2Proof/Laws/Decode.lean ====
section
/-! SUPPORT. A word is its fields, and a row's mask and match columns (30_encoding.md R79) in terms of them. With these a proof about
all words splits the sixteen values of OP and never enumerates words. -/

namespace Sys2Proof

/-- Reading a word's fields and assembling them gives the word (R75). -/
theorem wordOf_fieldsOf (w : Word) : wordOf (fieldsOf w) = w := by
  apply BitVec.eq_of_getLsbD_eq
  intro i hi
  simp only [wordOf, fieldsOf, opField, reservedField, levelField, operandField, BitVec.getLsbD_append,
    BitVec.getLsbD_extractLsb']
  rcases Nat.lt_or_ge i 8 with h | h
  · simp [h]
  · rcases Nat.eq_or_lt_of_le h with rfl | h'
    · simp
    · rcases Nat.lt_or_ge i 12 with h12 | h12
      · simp [show ¬ i < 8 by omega, show i - 8 ≠ 0 by omega, show i - 8 - 1 < 3 by omega, show 9 + (i - 8 - 1) = i by omega]
      · simp [show ¬ i < 8 by omega, show i - 8 ≠ 0 by omega, show ¬ i - 8 - 1 < 3 by omega,
          show i - 8 - 1 - 3 < 4 by omega, show 12 + (i - 8 - 1 - 3) = i by omega]

/-- Two assembled words are equal when their fields are (R75). -/
theorem wordOf_inj (f g : WordFields) : wordOf f = wordOf g ↔ f = g :=
  ⟨fun h => by rw [← Laws.FieldsOfWord.fieldsOf_wordOf f, h, Laws.FieldsOfWord.fieldsOf_wordOf], fun h => by rw [h]⟩

/-- Masking a word masks its fields. -/
theorem wordOf_and (f : WordFields) (op : BitVec 4) (rsv : BitVec 3) (l : Bit) (d : Byte) :
    wordOf f &&& wordOf ⟨op, rsv, l, d⟩ = wordOf ⟨f.op &&& op, f.rsv &&& rsv, f.level && l, f.operand &&& d⟩ := by
  apply BitVec.eq_of_getLsbD_eq
  intro i hi
  simp only [wordOf, BitVec.getLsbD_and, BitVec.getLsbD_append, BitVec.getLsbD_ofBool]
  by_cases h8 : i < 8
  · simp only [h8, if_true]
  · by_cases h1 : i - 8 < 1
    · simp only [h8, h1, if_true, if_false]
      cases f.level <;> cases l <;> simp
    · by_cases h3 : i - 8 - 1 < 3
      · simp only [h8, h1, h3, if_true, if_false]
      · simp only [h8, h1, h3, if_false]

/-- A row with the mask 0xFEFF (FALL, RISE) looks at all fields but L. -/
theorem selects_level (f : WordFields) (op : BitVec 4) :
    ((wordOf f &&& 0xFEFF#16) == wordOf ⟨op, 0, false, 0⟩) = decide (f.op = op ∧ f.rsv = 0 ∧ f.operand = 0) := by
  rw [show 0xFEFF#16 = wordOf ⟨0xF, 7, false, 0xFF⟩ from rfl, wordOf_and, beq_eq_decide]
  simp only [wordOf_inj, WordFields.mk.injEq]
  congr 1
  rw [show f.op &&& 0xF = f.op from BitVec.and_allOnes, show f.rsv &&& 7 = f.rsv from BitVec.and_allOnes,
    show f.operand &&& 0xFF = f.operand from BitVec.and_allOnes]
  simp

/-- A row with the mask 0xFF00 (WRITE, REGCB) looks at all fields but D. -/
theorem selects_operand (f : WordFields) (op : BitVec 4) :
    ((wordOf f &&& 0xFF00#16) == wordOf ⟨op, 0, false, 0⟩) = decide (f.op = op ∧ f.rsv = 0 ∧ f.level = false) := by
  rw [show 0xFF00#16 = wordOf ⟨0xF, 7, true, 0x00⟩ from rfl, wordOf_and, beq_eq_decide]
  simp only [wordOf_inj, WordFields.mk.injEq]
  congr 1
  rw [show f.op &&& 0xF = f.op from BitVec.and_allOnes, show f.rsv &&& 7 = f.rsv from BitVec.and_allOnes]
  simp

/-- A row with the mask 0xFFFF looks at all fields. -/
theorem selects_bare (f : WordFields) (op : BitVec 4) :
    ((wordOf f &&& 0xFFFF#16) == wordOf ⟨op, 0, false, 0⟩) =
      decide (f.op = op ∧ f.rsv = 0 ∧ f.level = false ∧ f.operand = 0) := by
  rw [show wordOf f &&& 0xFFFF#16 = wordOf f from BitVec.and_allOnes, beq_eq_decide]
  obtain ⟨o, r, v, b⟩ := f
  simp [wordOf_inj]

/-- The opcode map's rows over a word's fields, in order (R79). -/
theorem opcodeMap_selects (w : Word) :
    opcodeMap.map (fun r => r.selects w) =
      let f := fieldsOf w
      [ decide (f.op = 1 ∧ f.rsv = 0 ∧ f.operand = 0), decide (f.op = 2 ∧ f.rsv = 0 ∧ f.operand = 0),
        decide (f.op = 3 ∧ f.rsv = 0 ∧ f.level = false),
        decide (f.op = 4 ∧ f.rsv = 0 ∧ f.level = false ∧ f.operand = 0),
        decide (f.op = 5 ∧ f.rsv = 0 ∧ f.level = false ∧ f.operand = 0),
        decide (f.op = 6 ∧ f.rsv = 0 ∧ f.level = false ∧ f.operand = 0),
        decide (f.op = 7 ∧ f.rsv = 0 ∧ f.level = false),
        decide (f.op = 8 ∧ f.rsv = 0 ∧ f.level = false ∧ f.operand = 0),
        decide (f.op = 9 ∧ f.rsv = 0 ∧ f.level = false ∧ f.operand = 0),
        decide (f.op = 10 ∧ f.rsv = 0 ∧ f.level = false ∧ f.operand = 0),
        decide (f.op = 11 ∧ f.rsv = 0 ∧ f.level = false ∧ f.operand = 0) ] := by
  rw [← wordOf_fieldsOf w, Laws.FieldsOfWord.fieldsOf_wordOf]
  generalize fieldsOf w = f
  simp only [opcodeMap, List.map, OpcodeRow.selects, ← selects_level, ← selects_operand, ← selects_bare]
  rfl

/-- What the decoder answers: a legal word's operation, which has the word's fields, or a reason for an illegal word (R81). -/
theorem decode_cases (w : Word) :
    (∃ i, decode w = .ok i ∧ i.fields = fieldsOf w ∧ (fieldsOf w).wellFormed = true) ∨
    (∃ e, decode w = .error e ∧ (fieldsOf w).wellFormed = false) := by
  have hm := opcodeMap_selects w
  have hl : levelField w = (fieldsOf w).level := rfl
  have hd : operandField w = (fieldsOf w).operand := rfl
  revert hm hl hd
  simp only [decode]
  generalize fieldsOf w = f
  obtain ⟨o, r, v, b⟩ := f
  intro hm hl hd
  simp only [opcodeMap, List.map, List.cons.injEq] at hm
  obtain ⟨h1, h2, h3, h4, h5, h6, h7, h8, h9, h10, h11, -⟩ := hm
  simp only [opcodeMap, List.find?, h1, h2, h3, h4, h5, h6, h7, h8, h9, h10, h11, hl, hd]
  clear h1 h2 h3 h4 h5 h6 h7 h8 h9 h10 h11 hl hd
  simp only [WordFields.wellFormed, WordFields.opAssigned, WordFields.reservedClear, WordFields.levelAllowed,
    WordFields.operandAllowed, beq_eq_decide]
  have ho : o ∈ [0#4, 1#4, 2#4, 3#4, 4#4, 5#4, 6#4, 7#4, 8#4, 9#4, 10#4, 11#4, 12#4, 13#4, 14#4, 15#4] := by
    revert o; decide
  simp only [List.mem_cons, List.not_mem_nil, or_false] at ho
  rcases ho with rfl | rfl | rfl | rfl | rfl | rfl | rfl | rfl | rfl | rfl | rfl | rfl | rfl | rfl | rfl | rfl <;>
    simp only [BitVec.reduceEq, BitVec.reduceLE, true_and, false_and, decide_false, and_true, Bool.false_and]
  all_goals by_cases hr : r = 0#3 <;> by_cases hb : b = 0#8 <;> cases v <;> simp [hr, hb, Instr.fields]

end Sys2Proof
end

