-- ==== Sys2Proof/Laws/State.lean ====
section
/-! SUPPORT. What each shared update does to each field of State, one lemma a field, so that no proof unfolds a record update. -/

namespace Sys2Proof.Machine

variable (s : State)

/-! ### `respond` -/

@[simp] theorem respond_mode (st : Status) (d : Byte) : (respond st d s).mode = s.mode := rfl
@[simp] theorem respond_rdByte (st : Status) (d : Byte) : (respond st d s).rdByte = s.rdByte := rfl
@[simp] theorem respond_rdPos (st : Status) (d : Byte) : (respond st d s).rdPos = s.rdPos := rfl
@[simp] theorem respond_wrFrame (st : Status) (d : Byte) : (respond st d s).wrFrame = s.wrFrame := rfl
@[simp] theorem respond_wrPos (st : Status) (d : Byte) : (respond st d s).wrPos = s.wrPos := rfl
@[simp] theorem respond_clkDrive (st : Status) (d : Byte) : (respond st d s).clkDrive = s.clkDrive := rfl
@[simp] theorem respond_datDrive (st : Status) (d : Byte) : (respond st d s).datDrive = s.datDrive := rfl
@[simp] theorem respond_inh (st : Status) (d : Byte) : (respond st d s).inh = s.inh := rfl
@[simp] theorem respond_inhFrame (st : Status) (d : Byte) : (respond st d s).inhFrame = s.inhFrame := rfl
@[simp] theorem respond_cbReg (st : Status) (d : Byte) : (respond st d s).cbReg = s.cbReg := rfl
@[simp] theorem respond_cbHandle (st : Status) (d : Byte) : (respond st d s).cbHandle = s.cbHandle := rfl
@[simp] theorem respond_enabled (st : Status) (d : Byte) : (respond st d s).enabled = s.enabled := rfl
@[simp] theorem respond_queue (st : Status) (d : Byte) : (respond st d s).queue = s.queue := rfl
@[simp] theorem respond_rdWait (st : Status) (d : Byte) : (respond st d s).rdWait = s.rdWait := rfl
@[simp] theorem respond_ackStatus (st : Status) (d : Byte) : (respond st d s).ackStatus = s.ackStatus := rfl
@[simp] theorem respond_rdDone (st : Status) (d : Byte) : (respond st d s).rdDone = s.rdDone := rfl
@[simp] theorem respond_obs (st : Status) (d : Byte) : (respond st d s).obs = s.obs := rfl
@[simp] theorem respond_cbOut (st : Status) (d : Byte) : (respond st d s).cbOut = s.cbOut := rfl
@[simp] theorem respond_resp (st : Status) (d : Byte) : (respond st d s).resp = responseWord st d := rfl
@[simp] theorem respond_cfg (st : Status) (d : Byte) : (respond st d s).cfg = s.cfg := rfl
@[simp] theorem respond_input (st : Status) (d : Byte) : (respond st d s).input = s.input := rfl

/-! ### `complete` -/

@[simp] theorem complete_mode (c : Completion) : (complete c s).mode = s.mode := rfl
@[simp] theorem complete_rdByte (c : Completion) : (complete c s).rdByte = s.rdByte := rfl
@[simp] theorem complete_rdPos (c : Completion) : (complete c s).rdPos = s.rdPos := rfl
@[simp] theorem complete_wrFrame (c : Completion) : (complete c s).wrFrame = s.wrFrame := rfl
@[simp] theorem complete_wrPos (c : Completion) : (complete c s).wrPos = s.wrPos := rfl
@[simp] theorem complete_clkDrive (c : Completion) : (complete c s).clkDrive = s.clkDrive := rfl
@[simp] theorem complete_datDrive (c : Completion) : (complete c s).datDrive = s.datDrive := rfl
@[simp] theorem complete_inh (c : Completion) : (complete c s).inh = s.inh := rfl
@[simp] theorem complete_inhFrame (c : Completion) : (complete c s).inhFrame = s.inhFrame := rfl
@[simp] theorem complete_cbReg (c : Completion) : (complete c s).cbReg = s.cbReg := rfl
@[simp] theorem complete_cbHandle (c : Completion) : (complete c s).cbHandle = s.cbHandle := rfl
@[simp] theorem complete_enabled (c : Completion) : (complete c s).enabled = s.enabled := rfl
@[simp] theorem complete_queue (c : Completion) : (complete c s).queue = s.queue := rfl
@[simp] theorem complete_rdWait (c : Completion) : (complete c s).rdWait = s.rdWait := rfl
@[simp] theorem complete_ackStatus (c : Completion) : (complete c s).ackStatus = s.ackStatus := rfl
@[simp] theorem complete_rdDone (c : Completion) : (complete c s).rdDone = s.rdDone ++ [c] := rfl
@[simp] theorem complete_obs (c : Completion) : (complete c s).obs = s.obs := rfl
@[simp] theorem complete_cbOut (c : Completion) : (complete c s).cbOut = s.cbOut := rfl
@[simp] theorem complete_resp (c : Completion) : (complete c s).resp = s.resp := rfl
@[simp] theorem complete_cfg (c : Completion) : (complete c s).cfg = s.cfg := rfl
@[simp] theorem complete_input (c : Completion) : (complete c s).input = s.input := rfl

/-! ### `emit` -/

@[simp] theorem emit_mode (e : Event) : (emit e s).mode = s.mode := rfl
@[simp] theorem emit_rdByte (e : Event) : (emit e s).rdByte = s.rdByte := rfl
@[simp] theorem emit_rdPos (e : Event) : (emit e s).rdPos = s.rdPos := rfl
@[simp] theorem emit_wrFrame (e : Event) : (emit e s).wrFrame = s.wrFrame := rfl
@[simp] theorem emit_wrPos (e : Event) : (emit e s).wrPos = s.wrPos := rfl
@[simp] theorem emit_clkDrive (e : Event) : (emit e s).clkDrive = s.clkDrive := rfl
@[simp] theorem emit_datDrive (e : Event) : (emit e s).datDrive = s.datDrive := rfl
@[simp] theorem emit_inh (e : Event) : (emit e s).inh = s.inh := rfl
@[simp] theorem emit_inhFrame (e : Event) : (emit e s).inhFrame = s.inhFrame := rfl
@[simp] theorem emit_cbReg (e : Event) : (emit e s).cbReg = s.cbReg := rfl
@[simp] theorem emit_cbHandle (e : Event) : (emit e s).cbHandle = s.cbHandle := rfl
@[simp] theorem emit_enabled (e : Event) : (emit e s).enabled = s.enabled := rfl
@[simp] theorem emit_queue (e : Event) : (emit e s).queue = s.queue := rfl
@[simp] theorem emit_rdWait (e : Event) : (emit e s).rdWait = s.rdWait := rfl
@[simp] theorem emit_ackStatus (e : Event) : (emit e s).ackStatus = s.ackStatus := rfl
@[simp] theorem emit_rdDone (e : Event) : (emit e s).rdDone = s.rdDone := rfl
@[simp] theorem emit_obs (e : Event) : (emit e s).obs = s.obs ++ [e] := rfl
@[simp] theorem emit_cbOut (e : Event) : (emit e s).cbOut = s.cbOut := rfl
@[simp] theorem emit_resp (e : Event) : (emit e s).resp = s.resp := rfl
@[simp] theorem emit_cfg (e : Event) : (emit e s).cfg = s.cfg := rfl
@[simp] theorem emit_input (e : Event) : (emit e s).input = s.input := rfl

/-! ### `deliverToCallback` -/

@[simp] theorem deliverToCallback_mode (b : Byte) : (deliverToCallback b s).mode = s.mode := rfl
@[simp] theorem deliverToCallback_rdByte (b : Byte) : (deliverToCallback b s).rdByte = s.rdByte := rfl
@[simp] theorem deliverToCallback_rdPos (b : Byte) : (deliverToCallback b s).rdPos = s.rdPos := rfl
@[simp] theorem deliverToCallback_wrFrame (b : Byte) : (deliverToCallback b s).wrFrame = s.wrFrame := rfl
@[simp] theorem deliverToCallback_wrPos (b : Byte) : (deliverToCallback b s).wrPos = s.wrPos := rfl
@[simp] theorem deliverToCallback_clkDrive (b : Byte) : (deliverToCallback b s).clkDrive = s.clkDrive := rfl
@[simp] theorem deliverToCallback_datDrive (b : Byte) : (deliverToCallback b s).datDrive = s.datDrive := rfl
@[simp] theorem deliverToCallback_inh (b : Byte) : (deliverToCallback b s).inh = s.inh := rfl
@[simp] theorem deliverToCallback_inhFrame (b : Byte) : (deliverToCallback b s).inhFrame = s.inhFrame := rfl
@[simp] theorem deliverToCallback_cbReg (b : Byte) : (deliverToCallback b s).cbReg = s.cbReg := rfl
@[simp] theorem deliverToCallback_cbHandle (b : Byte) : (deliverToCallback b s).cbHandle = s.cbHandle := rfl
@[simp] theorem deliverToCallback_enabled (b : Byte) : (deliverToCallback b s).enabled = s.enabled := rfl
@[simp] theorem deliverToCallback_queue (b : Byte) : (deliverToCallback b s).queue = s.queue := rfl
@[simp] theorem deliverToCallback_rdWait (b : Byte) : (deliverToCallback b s).rdWait = s.rdWait := rfl
@[simp] theorem deliverToCallback_ackStatus (b : Byte) : (deliverToCallback b s).ackStatus = s.ackStatus := rfl
@[simp] theorem deliverToCallback_rdDone (b : Byte) : (deliverToCallback b s).rdDone = s.rdDone := rfl
@[simp] theorem deliverToCallback_obs (b : Byte) : (deliverToCallback b s).obs = s.obs := rfl
@[simp] theorem deliverToCallback_cbOut (b : Byte) : (deliverToCallback b s).cbOut = s.cbOut ++ [⟨s.cbHandle, b⟩] := rfl
@[simp] theorem deliverToCallback_resp (b : Byte) : (deliverToCallback b s).resp = s.resp := rfl
@[simp] theorem deliverToCallback_cfg (b : Byte) : (deliverToCallback b s).cfg = s.cfg := rfl
@[simp] theorem deliverToCallback_input (b : Byte) : (deliverToCallback b s).input = s.input := rfl

/-! ### `driveClk` -/

@[simp] theorem driveClk_mode (v : ClkDrive) : (driveClk v s).mode = s.mode := rfl
@[simp] theorem driveClk_rdByte (v : ClkDrive) : (driveClk v s).rdByte = s.rdByte := rfl
@[simp] theorem driveClk_rdPos (v : ClkDrive) : (driveClk v s).rdPos = s.rdPos := rfl
@[simp] theorem driveClk_wrFrame (v : ClkDrive) : (driveClk v s).wrFrame = s.wrFrame := rfl
@[simp] theorem driveClk_wrPos (v : ClkDrive) : (driveClk v s).wrPos = s.wrPos := rfl
@[simp] theorem driveClk_clkDrive (v : ClkDrive) : (driveClk v s).clkDrive = v := rfl
@[simp] theorem driveClk_datDrive (v : ClkDrive) : (driveClk v s).datDrive = s.datDrive := rfl
@[simp] theorem driveClk_inh (v : ClkDrive) : (driveClk v s).inh = s.inh := rfl
@[simp] theorem driveClk_inhFrame (v : ClkDrive) : (driveClk v s).inhFrame = s.inhFrame := rfl
@[simp] theorem driveClk_cbReg (v : ClkDrive) : (driveClk v s).cbReg = s.cbReg := rfl
@[simp] theorem driveClk_cbHandle (v : ClkDrive) : (driveClk v s).cbHandle = s.cbHandle := rfl
@[simp] theorem driveClk_enabled (v : ClkDrive) : (driveClk v s).enabled = s.enabled := rfl
@[simp] theorem driveClk_queue (v : ClkDrive) : (driveClk v s).queue = s.queue := rfl
@[simp] theorem driveClk_rdWait (v : ClkDrive) : (driveClk v s).rdWait = s.rdWait := rfl
@[simp] theorem driveClk_ackStatus (v : ClkDrive) : (driveClk v s).ackStatus = s.ackStatus := rfl
@[simp] theorem driveClk_rdDone (v : ClkDrive) : (driveClk v s).rdDone = s.rdDone := rfl
@[simp] theorem driveClk_obs (v : ClkDrive) : (driveClk v s).obs = s.obs := rfl
@[simp] theorem driveClk_cbOut (v : ClkDrive) : (driveClk v s).cbOut = s.cbOut := rfl
@[simp] theorem driveClk_resp (v : ClkDrive) : (driveClk v s).resp = s.resp := rfl
@[simp] theorem driveClk_cfg (v : ClkDrive) : (driveClk v s).cfg = s.cfg := rfl
@[simp] theorem driveClk_input (v : ClkDrive) : (driveClk v s).input = s.input := rfl

/-! ### `driveData` -/

@[simp] theorem driveData_mode (v : Bit) : (driveData v s).mode = s.mode := rfl
@[simp] theorem driveData_rdByte (v : Bit) : (driveData v s).rdByte = s.rdByte := rfl
@[simp] theorem driveData_rdPos (v : Bit) : (driveData v s).rdPos = s.rdPos := rfl
@[simp] theorem driveData_wrFrame (v : Bit) : (driveData v s).wrFrame = s.wrFrame := rfl
@[simp] theorem driveData_wrPos (v : Bit) : (driveData v s).wrPos = s.wrPos := rfl
@[simp] theorem driveData_clkDrive (v : Bit) : (driveData v s).clkDrive = s.clkDrive := rfl
@[simp] theorem driveData_datDrive (v : Bit) : (driveData v s).datDrive = v := rfl
@[simp] theorem driveData_inh (v : Bit) : (driveData v s).inh = s.inh := rfl
@[simp] theorem driveData_inhFrame (v : Bit) : (driveData v s).inhFrame = s.inhFrame := rfl
@[simp] theorem driveData_cbReg (v : Bit) : (driveData v s).cbReg = s.cbReg := rfl
@[simp] theorem driveData_cbHandle (v : Bit) : (driveData v s).cbHandle = s.cbHandle := rfl
@[simp] theorem driveData_enabled (v : Bit) : (driveData v s).enabled = s.enabled := rfl
@[simp] theorem driveData_queue (v : Bit) : (driveData v s).queue = s.queue := rfl
@[simp] theorem driveData_rdWait (v : Bit) : (driveData v s).rdWait = s.rdWait := rfl
@[simp] theorem driveData_ackStatus (v : Bit) : (driveData v s).ackStatus = s.ackStatus := rfl
@[simp] theorem driveData_rdDone (v : Bit) : (driveData v s).rdDone = s.rdDone := rfl
@[simp] theorem driveData_obs (v : Bit) : (driveData v s).obs = s.obs := rfl
@[simp] theorem driveData_cbOut (v : Bit) : (driveData v s).cbOut = s.cbOut := rfl
@[simp] theorem driveData_resp (v : Bit) : (driveData v s).resp = s.resp := rfl
@[simp] theorem driveData_cfg (v : Bit) : (driveData v s).cfg = s.cfg := rfl
@[simp] theorem driveData_input (v : Bit) : (driveData v s).input = s.input := rfl

/-! ### `resetReadState` -/

@[simp] theorem resetReadState_mode : (resetReadState s).mode = s.mode := rfl
@[simp] theorem resetReadState_rdByte : (resetReadState s).rdByte = 0x00 := rfl
@[simp] theorem resetReadState_rdPos : (resetReadState s).rdPos = 0 := rfl
@[simp] theorem resetReadState_wrFrame : (resetReadState s).wrFrame = s.wrFrame := rfl
@[simp] theorem resetReadState_wrPos : (resetReadState s).wrPos = s.wrPos := rfl
@[simp] theorem resetReadState_clkDrive : (resetReadState s).clkDrive = s.clkDrive := rfl
@[simp] theorem resetReadState_datDrive : (resetReadState s).datDrive = s.datDrive := rfl
@[simp] theorem resetReadState_inh : (resetReadState s).inh = s.inh := rfl
@[simp] theorem resetReadState_inhFrame : (resetReadState s).inhFrame = s.inhFrame := rfl
@[simp] theorem resetReadState_cbReg : (resetReadState s).cbReg = s.cbReg := rfl
@[simp] theorem resetReadState_cbHandle : (resetReadState s).cbHandle = s.cbHandle := rfl
@[simp] theorem resetReadState_enabled : (resetReadState s).enabled = s.enabled := rfl
@[simp] theorem resetReadState_queue : (resetReadState s).queue = s.queue := rfl
@[simp] theorem resetReadState_rdWait : (resetReadState s).rdWait = s.rdWait := rfl
@[simp] theorem resetReadState_ackStatus : (resetReadState s).ackStatus = s.ackStatus := rfl
@[simp] theorem resetReadState_rdDone : (resetReadState s).rdDone = s.rdDone := rfl
@[simp] theorem resetReadState_obs : (resetReadState s).obs = s.obs := rfl
@[simp] theorem resetReadState_cbOut : (resetReadState s).cbOut = s.cbOut := rfl
@[simp] theorem resetReadState_resp : (resetReadState s).resp = s.resp := rfl
@[simp] theorem resetReadState_cfg : (resetReadState s).cfg = s.cfg := rfl
@[simp] theorem resetReadState_input : (resetReadState s).input = s.input := rfl

/-! ### `resetWriteState` -/

@[simp] theorem resetWriteState_mode : (resetWriteState s).mode = s.mode := rfl
@[simp] theorem resetWriteState_rdByte : (resetWriteState s).rdByte = s.rdByte := rfl
@[simp] theorem resetWriteState_rdPos : (resetWriteState s).rdPos = s.rdPos := rfl
@[simp] theorem resetWriteState_wrFrame : (resetWriteState s).wrFrame = 0x000 := rfl
@[simp] theorem resetWriteState_wrPos : (resetWriteState s).wrPos = 0 := rfl
@[simp] theorem resetWriteState_clkDrive : (resetWriteState s).clkDrive = s.clkDrive := rfl
@[simp] theorem resetWriteState_datDrive : (resetWriteState s).datDrive = s.datDrive := rfl
@[simp] theorem resetWriteState_inh : (resetWriteState s).inh = s.inh := rfl
@[simp] theorem resetWriteState_inhFrame : (resetWriteState s).inhFrame = s.inhFrame := rfl
@[simp] theorem resetWriteState_cbReg : (resetWriteState s).cbReg = s.cbReg := rfl
@[simp] theorem resetWriteState_cbHandle : (resetWriteState s).cbHandle = s.cbHandle := rfl
@[simp] theorem resetWriteState_enabled : (resetWriteState s).enabled = s.enabled := rfl
@[simp] theorem resetWriteState_queue : (resetWriteState s).queue = s.queue := rfl
@[simp] theorem resetWriteState_rdWait : (resetWriteState s).rdWait = s.rdWait := rfl
@[simp] theorem resetWriteState_ackStatus : (resetWriteState s).ackStatus = s.ackStatus := rfl
@[simp] theorem resetWriteState_rdDone : (resetWriteState s).rdDone = s.rdDone := rfl
@[simp] theorem resetWriteState_obs : (resetWriteState s).obs = s.obs := rfl
@[simp] theorem resetWriteState_cbOut : (resetWriteState s).cbOut = s.cbOut := rfl
@[simp] theorem resetWriteState_resp : (resetWriteState s).resp = s.resp := rfl
@[simp] theorem resetWriteState_cfg : (resetWriteState s).cfg = s.cfg := rfl
@[simp] theorem resetWriteState_input : (resetWriteState s).input = s.input := rfl

/-! ### `flush` -/

@[simp] theorem flush_mode : (flush s).mode = s.mode := rfl
@[simp] theorem flush_rdByte : (flush s).rdByte = s.rdByte := rfl
@[simp] theorem flush_rdPos : (flush s).rdPos = s.rdPos := rfl
@[simp] theorem flush_wrFrame : (flush s).wrFrame = s.wrFrame := rfl
@[simp] theorem flush_wrPos : (flush s).wrPos = s.wrPos := rfl
@[simp] theorem flush_clkDrive : (flush s).clkDrive = s.clkDrive := rfl
@[simp] theorem flush_datDrive : (flush s).datDrive = s.datDrive := rfl
@[simp] theorem flush_inh : (flush s).inh = s.inh := rfl
@[simp] theorem flush_inhFrame : (flush s).inhFrame = s.inhFrame := rfl
@[simp] theorem flush_cbReg : (flush s).cbReg = s.cbReg := rfl
@[simp] theorem flush_cbHandle : (flush s).cbHandle = s.cbHandle := rfl
@[simp] theorem flush_enabled : (flush s).enabled = s.enabled := rfl
@[simp] theorem flush_queue : (flush s).queue = [] := rfl
@[simp] theorem flush_rdWait : (flush s).rdWait = s.rdWait := rfl
@[simp] theorem flush_ackStatus : (flush s).ackStatus = s.ackStatus := rfl
@[simp] theorem flush_rdDone : (flush s).rdDone = s.rdDone := rfl
@[simp] theorem flush_obs : (flush s).obs = s.obs := rfl
@[simp] theorem flush_cbOut : (flush s).cbOut = s.cbOut := rfl
@[simp] theorem flush_resp : (flush s).resp = s.resp := rfl
@[simp] theorem flush_cfg : (flush s).cfg = s.cfg := rfl
@[simp] theorem flush_input : (flush s).input = s.input := rfl

/-! ### `sendPhase1` -/

@[simp] theorem sendPhase1_mode (b : Byte) : (sendPhase1 b s).mode = s.mode := rfl
@[simp] theorem sendPhase1_rdByte (b : Byte) : (sendPhase1 b s).rdByte = s.rdByte := rfl
@[simp] theorem sendPhase1_rdPos (b : Byte) : (sendPhase1 b s).rdPos = s.rdPos := rfl
@[simp] theorem sendPhase1_wrFrame (b : Byte) : (sendPhase1 b s).wrFrame = s.wrFrame := rfl
@[simp] theorem sendPhase1_wrPos (b : Byte) : (sendPhase1 b s).wrPos = s.wrPos := rfl
@[simp] theorem sendPhase1_clkDrive (b : Byte) : (sendPhase1 b s).clkDrive = .low := rfl
@[simp] theorem sendPhase1_datDrive (b : Byte) : (sendPhase1 b s).datDrive = s.datDrive := rfl
@[simp] theorem sendPhase1_inh (b : Byte) : (sendPhase1 b s).inh = true := rfl
@[simp] theorem sendPhase1_inhFrame (b : Byte) : (sendPhase1 b s).inhFrame = encodeWriteFrame b := rfl
@[simp] theorem sendPhase1_cbReg (b : Byte) : (sendPhase1 b s).cbReg = s.cbReg := rfl
@[simp] theorem sendPhase1_cbHandle (b : Byte) : (sendPhase1 b s).cbHandle = s.cbHandle := rfl
@[simp] theorem sendPhase1_enabled (b : Byte) : (sendPhase1 b s).enabled = s.enabled := rfl
@[simp] theorem sendPhase1_queue (b : Byte) : (sendPhase1 b s).queue = s.queue := rfl
@[simp] theorem sendPhase1_rdWait (b : Byte) : (sendPhase1 b s).rdWait = s.rdWait := rfl
@[simp] theorem sendPhase1_ackStatus (b : Byte) : (sendPhase1 b s).ackStatus = s.ackStatus := rfl
@[simp] theorem sendPhase1_rdDone (b : Byte) : (sendPhase1 b s).rdDone = s.rdDone := rfl
@[simp] theorem sendPhase1_obs (b : Byte) : (sendPhase1 b s).obs = s.obs := rfl
@[simp] theorem sendPhase1_cbOut (b : Byte) : (sendPhase1 b s).cbOut = s.cbOut := rfl
@[simp] theorem sendPhase1_resp (b : Byte) : (sendPhase1 b s).resp = s.resp := rfl
@[simp] theorem sendPhase1_cfg (b : Byte) : (sendPhase1 b s).cfg = s.cfg := rfl
@[simp] theorem sendPhase1_input (b : Byte) : (sendPhase1 b s).input = s.input := rfl

/-! ### `commitWrite` -/

@[simp] theorem commitWrite_mode : (commitWrite s).mode = .write := rfl
@[simp] theorem commitWrite_rdByte : (commitWrite s).rdByte = 0x00 := rfl
@[simp] theorem commitWrite_rdPos : (commitWrite s).rdPos = 0 := rfl
@[simp] theorem commitWrite_wrFrame : (commitWrite s).wrFrame = s.inhFrame := rfl
@[simp] theorem commitWrite_wrPos : (commitWrite s).wrPos = 1 := rfl
@[simp] theorem commitWrite_clkDrive : (commitWrite s).clkDrive = .released := rfl
@[simp] theorem commitWrite_datDrive : (commitWrite s).datDrive = s.inhFrame.getLsbD 0 := rfl
@[simp] theorem commitWrite_inh : (commitWrite s).inh = false := rfl
@[simp] theorem commitWrite_inhFrame : (commitWrite s).inhFrame = 0x000 := rfl
@[simp] theorem commitWrite_cbReg : (commitWrite s).cbReg = s.cbReg := rfl
@[simp] theorem commitWrite_cbHandle : (commitWrite s).cbHandle = s.cbHandle := rfl
@[simp] theorem commitWrite_enabled : (commitWrite s).enabled = s.enabled := rfl
@[simp] theorem commitWrite_queue : (commitWrite s).queue = s.queue := rfl
@[simp] theorem commitWrite_rdWait : (commitWrite s).rdWait = s.rdWait := rfl
@[simp] theorem commitWrite_ackStatus : (commitWrite s).ackStatus = .pending := rfl
@[simp] theorem commitWrite_rdDone : (commitWrite s).rdDone = s.rdDone := rfl
@[simp] theorem commitWrite_obs : (commitWrite s).obs = s.obs := rfl
@[simp] theorem commitWrite_cbOut : (commitWrite s).cbOut = s.cbOut := rfl
@[simp] theorem commitWrite_resp : (commitWrite s).resp = s.resp := rfl
@[simp] theorem commitWrite_cfg : (commitWrite s).cfg = s.cfg := rfl
@[simp] theorem commitWrite_input : (commitWrite s).input = s.input := rfl

/-! ### `writeBit` -/

@[simp] theorem writeBit_mode : (writeBit s).mode = s.mode := rfl
@[simp] theorem writeBit_rdByte : (writeBit s).rdByte = s.rdByte := rfl
@[simp] theorem writeBit_rdPos : (writeBit s).rdPos = s.rdPos := rfl
@[simp] theorem writeBit_wrFrame : (writeBit s).wrFrame = s.wrFrame := rfl
@[simp] theorem writeBit_wrPos : (writeBit s).wrPos = s.wrPos + 1 := rfl
@[simp] theorem writeBit_clkDrive : (writeBit s).clkDrive = s.clkDrive := rfl
@[simp] theorem writeBit_datDrive : (writeBit s).datDrive = s.wrFrame.getLsbD s.wrPos.toNat := rfl
@[simp] theorem writeBit_inh : (writeBit s).inh = s.inh := rfl
@[simp] theorem writeBit_inhFrame : (writeBit s).inhFrame = s.inhFrame := rfl
@[simp] theorem writeBit_cbReg : (writeBit s).cbReg = s.cbReg := rfl
@[simp] theorem writeBit_cbHandle : (writeBit s).cbHandle = s.cbHandle := rfl
@[simp] theorem writeBit_enabled : (writeBit s).enabled = s.enabled := rfl
@[simp] theorem writeBit_queue : (writeBit s).queue = s.queue := rfl
@[simp] theorem writeBit_rdWait : (writeBit s).rdWait = s.rdWait := rfl
@[simp] theorem writeBit_ackStatus : (writeBit s).ackStatus = s.ackStatus := rfl
@[simp] theorem writeBit_rdDone : (writeBit s).rdDone = s.rdDone := rfl
@[simp] theorem writeBit_obs : (writeBit s).obs = s.obs := rfl
@[simp] theorem writeBit_cbOut : (writeBit s).cbOut = s.cbOut := rfl
@[simp] theorem writeBit_resp : (writeBit s).resp = s.resp := rfl
@[simp] theorem writeBit_cfg : (writeBit s).cfg = s.cfg := rfl
@[simp] theorem writeBit_input : (writeBit s).input = s.input := rfl

/-! ### `ackCheck` -/

@[simp] theorem ackCheck_mode (l : Bit) : (ackCheck l s).mode = .read := rfl
@[simp] theorem ackCheck_rdByte (l : Bit) : (ackCheck l s).rdByte = s.rdByte := rfl
@[simp] theorem ackCheck_rdPos (l : Bit) : (ackCheck l s).rdPos = s.rdPos := rfl
@[simp] theorem ackCheck_wrFrame (l : Bit) : (ackCheck l s).wrFrame = 0x000 := rfl
@[simp] theorem ackCheck_wrPos (l : Bit) : (ackCheck l s).wrPos = 0 := rfl
@[simp] theorem ackCheck_clkDrive (l : Bit) : (ackCheck l s).clkDrive = s.clkDrive := rfl
@[simp] theorem ackCheck_datDrive (l : Bit) : (ackCheck l s).datDrive = s.datDrive := rfl
@[simp] theorem ackCheck_inh (l : Bit) : (ackCheck l s).inh = s.inh := rfl
@[simp] theorem ackCheck_inhFrame (l : Bit) : (ackCheck l s).inhFrame = s.inhFrame := rfl
@[simp] theorem ackCheck_cbReg (l : Bit) : (ackCheck l s).cbReg = s.cbReg := rfl
@[simp] theorem ackCheck_cbHandle (l : Bit) : (ackCheck l s).cbHandle = s.cbHandle := rfl
@[simp] theorem ackCheck_enabled (l : Bit) : (ackCheck l s).enabled = s.enabled := rfl
@[simp] theorem ackCheck_queue (l : Bit) : (ackCheck l s).queue = s.queue := rfl
@[simp] theorem ackCheck_rdWait (l : Bit) : (ackCheck l s).rdWait = s.rdWait := rfl
@[simp] theorem ackCheck_ackStatus (l : Bit) : (ackCheck l s).ackStatus = ackOfSample l := rfl
@[simp] theorem ackCheck_rdDone (l : Bit) : (ackCheck l s).rdDone = s.rdDone := rfl
@[simp] theorem ackCheck_obs (l : Bit) : (ackCheck l s).obs = s.obs ++ [ackEvent l] := rfl
@[simp] theorem ackCheck_cbOut (l : Bit) : (ackCheck l s).cbOut = s.cbOut := rfl
@[simp] theorem ackCheck_resp (l : Bit) : (ackCheck l s).resp = s.resp := rfl
@[simp] theorem ackCheck_cfg (l : Bit) : (ackCheck l s).cfg = s.cfg := rfl
@[simp] theorem ackCheck_input (l : Bit) : (ackCheck l s).input = s.input := rfl

/-! ### `readDataBit` -/

@[simp] theorem readDataBit_mode (l : Bit) : (readDataBit l s).mode = s.mode := rfl
@[simp] theorem readDataBit_rdByte (l : Bit) : (readDataBit l s).rdByte = storeBit s.rdByte (s.rdPos.toNat - 1) l := rfl
@[simp] theorem readDataBit_rdPos (l : Bit) : (readDataBit l s).rdPos = s.rdPos + 1 := rfl
@[simp] theorem readDataBit_wrFrame (l : Bit) : (readDataBit l s).wrFrame = s.wrFrame := rfl
@[simp] theorem readDataBit_wrPos (l : Bit) : (readDataBit l s).wrPos = s.wrPos := rfl
@[simp] theorem readDataBit_clkDrive (l : Bit) : (readDataBit l s).clkDrive = s.clkDrive := rfl
@[simp] theorem readDataBit_datDrive (l : Bit) : (readDataBit l s).datDrive = s.datDrive := rfl
@[simp] theorem readDataBit_inh (l : Bit) : (readDataBit l s).inh = s.inh := rfl
@[simp] theorem readDataBit_inhFrame (l : Bit) : (readDataBit l s).inhFrame = s.inhFrame := rfl
@[simp] theorem readDataBit_cbReg (l : Bit) : (readDataBit l s).cbReg = s.cbReg := rfl
@[simp] theorem readDataBit_cbHandle (l : Bit) : (readDataBit l s).cbHandle = s.cbHandle := rfl
@[simp] theorem readDataBit_enabled (l : Bit) : (readDataBit l s).enabled = s.enabled := rfl
@[simp] theorem readDataBit_queue (l : Bit) : (readDataBit l s).queue = s.queue := rfl
@[simp] theorem readDataBit_rdWait (l : Bit) : (readDataBit l s).rdWait = s.rdWait := rfl
@[simp] theorem readDataBit_ackStatus (l : Bit) : (readDataBit l s).ackStatus = s.ackStatus := rfl
@[simp] theorem readDataBit_rdDone (l : Bit) : (readDataBit l s).rdDone = s.rdDone := rfl
@[simp] theorem readDataBit_obs (l : Bit) : (readDataBit l s).obs = s.obs := rfl
@[simp] theorem readDataBit_cbOut (l : Bit) : (readDataBit l s).cbOut = s.cbOut := rfl
@[simp] theorem readDataBit_resp (l : Bit) : (readDataBit l s).resp = s.resp := rfl
@[simp] theorem readDataBit_cfg (l : Bit) : (readDataBit l s).cfg = s.cfg := rfl
@[simp] theorem readDataBit_input (l : Bit) : (readDataBit l s).input = s.input := rfl

/-! ### `respondIllegal` -/

@[simp] theorem respondIllegal_mode : (respondIllegal s).mode = s.mode := rfl
@[simp] theorem respondIllegal_rdByte : (respondIllegal s).rdByte = s.rdByte := rfl
@[simp] theorem respondIllegal_rdPos : (respondIllegal s).rdPos = s.rdPos := rfl
@[simp] theorem respondIllegal_wrFrame : (respondIllegal s).wrFrame = s.wrFrame := rfl
@[simp] theorem respondIllegal_wrPos : (respondIllegal s).wrPos = s.wrPos := rfl
@[simp] theorem respondIllegal_clkDrive : (respondIllegal s).clkDrive = s.clkDrive := rfl
@[simp] theorem respondIllegal_datDrive : (respondIllegal s).datDrive = s.datDrive := rfl
@[simp] theorem respondIllegal_inh : (respondIllegal s).inh = s.inh := rfl
@[simp] theorem respondIllegal_inhFrame : (respondIllegal s).inhFrame = s.inhFrame := rfl
@[simp] theorem respondIllegal_cbReg : (respondIllegal s).cbReg = s.cbReg := rfl
@[simp] theorem respondIllegal_cbHandle : (respondIllegal s).cbHandle = s.cbHandle := rfl
@[simp] theorem respondIllegal_enabled : (respondIllegal s).enabled = s.enabled := rfl
@[simp] theorem respondIllegal_queue : (respondIllegal s).queue = s.queue := rfl
@[simp] theorem respondIllegal_rdWait : (respondIllegal s).rdWait = s.rdWait := rfl
@[simp] theorem respondIllegal_ackStatus : (respondIllegal s).ackStatus = s.ackStatus := rfl
@[simp] theorem respondIllegal_rdDone : (respondIllegal s).rdDone = s.rdDone := rfl
@[simp] theorem respondIllegal_obs : (respondIllegal s).obs = s.obs := rfl
@[simp] theorem respondIllegal_cbOut : (respondIllegal s).cbOut = s.cbOut := rfl
@[simp] theorem respondIllegal_resp : (respondIllegal s).resp = 0x7000#16 := rfl
@[simp] theorem respondIllegal_cfg : (respondIllegal s).cfg = s.cfg := rfl
@[simp] theorem respondIllegal_input : (respondIllegal s).input = s.input := rfl

/-! ### `supplyWord` -/

@[simp] theorem supplyWord_mode (w : Word) : (supplyWord w s).mode = s.mode := rfl
@[simp] theorem supplyWord_rdByte (w : Word) : (supplyWord w s).rdByte = s.rdByte := rfl
@[simp] theorem supplyWord_rdPos (w : Word) : (supplyWord w s).rdPos = s.rdPos := rfl
@[simp] theorem supplyWord_wrFrame (w : Word) : (supplyWord w s).wrFrame = s.wrFrame := rfl
@[simp] theorem supplyWord_wrPos (w : Word) : (supplyWord w s).wrPos = s.wrPos := rfl
@[simp] theorem supplyWord_clkDrive (w : Word) : (supplyWord w s).clkDrive = s.clkDrive := rfl
@[simp] theorem supplyWord_datDrive (w : Word) : (supplyWord w s).datDrive = s.datDrive := rfl
@[simp] theorem supplyWord_inh (w : Word) : (supplyWord w s).inh = s.inh := rfl
@[simp] theorem supplyWord_inhFrame (w : Word) : (supplyWord w s).inhFrame = s.inhFrame := rfl
@[simp] theorem supplyWord_cbReg (w : Word) : (supplyWord w s).cbReg = s.cbReg := rfl
@[simp] theorem supplyWord_cbHandle (w : Word) : (supplyWord w s).cbHandle = s.cbHandle := rfl
@[simp] theorem supplyWord_enabled (w : Word) : (supplyWord w s).enabled = s.enabled := rfl
@[simp] theorem supplyWord_queue (w : Word) : (supplyWord w s).queue = s.queue := rfl
@[simp] theorem supplyWord_rdWait (w : Word) : (supplyWord w s).rdWait = s.rdWait := rfl
@[simp] theorem supplyWord_ackStatus (w : Word) : (supplyWord w s).ackStatus = s.ackStatus := rfl
@[simp] theorem supplyWord_rdDone (w : Word) : (supplyWord w s).rdDone = s.rdDone := rfl
@[simp] theorem supplyWord_obs (w : Word) : (supplyWord w s).obs = s.obs := rfl
@[simp] theorem supplyWord_cbOut (w : Word) : (supplyWord w s).cbOut = s.cbOut := rfl
@[simp] theorem supplyWord_resp (w : Word) : (supplyWord w s).resp = s.resp := rfl
@[simp] theorem supplyWord_cfg (w : Word) : (supplyWord w s).cfg = s.cfg := rfl
@[simp] theorem supplyWord_input (w : Word) : (supplyWord w s).input = w :: s.input := rfl

end Sys2Proof.Machine
end

