-- ==== Sys2Proof/Laws/Ops.lean ====
section
/-! SUPPORT. One lemma for each shared operation that branches, saying once everything it can do; proofs cite these and do not unfold
the operations. -/

namespace Sys2Proof.Machine

/-- Enqueue is exactly one of three things: completing the waiting READ, appending, or reporting an overflow (R55). -/
theorem enqueue_cases (b : Byte) (s : State) :
    (s.rdWait = true ∧ enqueue b s = { s with rdDone := s.rdDone ++ [.data b], rdWait := false }) ∨
    (s.rdWait = false ∧ hasRoom s.cfg.queueCap s.queue.length = true ∧
      enqueue b s = { s with queue := s.queue ++ [b] }) ∨
    (s.rdWait = false ∧ hasRoom s.cfg.queueCap s.queue.length = false ∧
      enqueue b s = { s with obs := s.obs ++ [.queueOverflow] }) := by
  unfold enqueue
  cases h : s.rdWait
  · cases hr : hasRoom s.cfg.queueCap s.queue.length
    · exact .inr (.inr ⟨rfl, rfl, by simp [emit, h]⟩)
    · exact .inr (.inl ⟨rfl, rfl, by simp⟩)
  · exact .inl ⟨rfl, by simp [complete]⟩

/-- Deliver is the callback record, or one of Enqueue's three (R125). -/
theorem deliverByte_cases (b : Byte) (s : State) :
    (s.cbReg = true ∧ s.enabled = true ∧ deliverByte b s = { s with cbOut := s.cbOut ++ [⟨s.cbHandle, b⟩] }) ∨
    ((s.cbReg = false ∨ s.enabled = false) ∧ deliverByte b s = enqueue b s) := by
  unfold deliverByte
  cases hc : s.cbReg <;> cases he : s.enabled
  · exact .inr ⟨.inl rfl, by simp⟩
  · exact .inr ⟨.inl rfl, by simp⟩
  · exact .inr ⟨.inr rfl, by simp⟩
  · exact .inl ⟨rfl, rfl, by simp [deliverToCallback, hc, he]⟩

/-- AbortAndRecover with a working send path (R130, R131). -/
theorem abortAndRecover_send (k : FramingError) (s : State) (h : s.cfg.sendPathImplemented = true) :
    abortAndRecover k s = { s with
      inhFrame := 0x5FC, clkDrive := .low, inh := true, rdByte := 0x00, rdPos := 0, obs := s.obs ++ [framingEvent k] } := by
  simp [abortAndRecover, h, emit, resetReadState, sendPhase1, driveClk, encodeWriteFrame_resendByte]

/-- AbortAndRecover without one (R130, R134). -/
theorem abortAndRecover_stub (k : FramingError) (s : State) (h : s.cfg.sendPathImplemented = false) :
    abortAndRecover k s = { s with
      rdByte := 0x00, rdPos := 0, obs := s.obs ++ [.resendNotImplemented, framingEvent k] } := by
  simp [abortAndRecover, h, emit, resetReadState]

/-- The read machine's step is one of: a good start bit, a data bit, a good parity bit, a good stop bit with its delivery, and an abort
at position 0, 9 or 10 (R120 to R124). -/
theorem readBit_cases (l : Bit) (s : State) (hp : s.rdPos ≤ 10) :
    (s.rdPos = 0 ∧ l = false ∧ readBit l s = { s with rdPos := 1 }) ∨
    (1 ≤ s.rdPos ∧ s.rdPos ≤ 8 ∧
      readBit l s = { s with rdByte := storeBit s.rdByte (s.rdPos.toNat - 1) l, rdPos := s.rdPos + 1 }) ∨
    (s.rdPos = 9 ∧ checkParity s.rdByte l = true ∧ readBit l s = { s with rdPos := 10 }) ∨
    (s.rdPos = 10 ∧ l = true ∧ readBit l s = resetReadState (deliverByte s.rdByte s)) ∨
    (∃ k, (s.rdPos = 0 ∧ l = true ∧ k = .start ∨ s.rdPos = 9 ∧ checkParity s.rdByte l = false ∧ k = .parity ∨
      s.rdPos = 10 ∧ l = false ∧ k = .stop) ∧ readBit l s = abortAndRecover k s) := by
  unfold readBit
  by_cases h0 : s.rdPos = 0
  · cases l
    · exact .inl ⟨h0, rfl, by simp [h0, readStartBit]⟩
    · exact .inr (.inr (.inr (.inr ⟨.start, .inl ⟨h0, rfl, rfl⟩, by simp [h0, readStartBit]⟩)))
  · by_cases h8 : s.rdPos ≤ 8
    · exact .inr (.inl ⟨by bv_omega, h8, by rw [if_neg h0, if_pos h8]; rfl⟩)
    · by_cases h9 : s.rdPos = 9
      · cases hc : checkParity s.rdByte l
        · exact .inr (.inr (.inr (.inr ⟨.parity, .inr (.inl ⟨h9, rfl, rfl⟩), by simp [h9, readParityBit, hc]⟩)))
        · exact .inr (.inr (.inl ⟨h9, rfl, by simp [h9, readParityBit, hc]⟩))
      · have h10 : s.rdPos = 10 := by bv_omega
        cases l
        · exact .inr (.inr (.inr (.inr ⟨.stop, .inr (.inr ⟨h10, rfl, rfl⟩), by simp [h10, readStopBit]⟩)))
        · exact .inr (.inr (.inr (.inl ⟨h10, rfl, by simp [h10, readStopBit]⟩)))

/-- Deliver, field by field: to the callback, to the waiting READ, to the queue, or dropped (R125, R55). -/
theorem deliverByte_fields (b : Byte) (s : State) :
    ∃ q rw rd ob cb, deliverByte b s = { s with queue := q, rdWait := rw, rdDone := rd, obs := ob, cbOut := cb } ∧
      ((cb = s.cbOut ++ [⟨s.cbHandle, b⟩] ∧ q = s.queue ∧ rw = s.rdWait ∧ rd = s.rdDone ∧ ob = s.obs) ∨
        (s.rdWait = true ∧ cb = s.cbOut ∧ q = s.queue ∧ rw = false ∧ rd = s.rdDone ++ [.data b] ∧ ob = s.obs) ∨
        (s.rdWait = false ∧ hasRoom s.cfg.queueCap s.queue.length = true ∧
          cb = s.cbOut ∧ q = s.queue ++ [b] ∧ rw = s.rdWait ∧ rd = s.rdDone ∧ ob = s.obs) ∨
        (s.rdWait = false ∧ cb = s.cbOut ∧ q = s.queue ∧ rw = s.rdWait ∧ rd = s.rdDone ∧ ob = s.obs ++ [.queueOverflow])) := by
  rcases deliverByte_cases b s with ⟨-, -, h⟩ | ⟨-, h⟩
  · exact ⟨_, _, _, _, _, h, .inl ⟨rfl, rfl, rfl, rfl, rfl⟩⟩
  · rw [h]
    rcases enqueue_cases b s with ⟨hw, h⟩ | ⟨hw, hr, h⟩ | ⟨hw, -, h⟩
    · exact ⟨_, _, _, _, _, h, .inr (.inl ⟨hw, rfl, rfl, rfl, rfl, rfl⟩)⟩
    · exact ⟨_, _, _, _, _, h, .inr (.inr (.inl ⟨hw, hr, rfl, rfl, rfl, rfl, rfl⟩))⟩
    · exact ⟨_, _, _, _, _, h, .inr (.inr (.inr ⟨hw, rfl, rfl, rfl, rfl, rfl⟩))⟩

/-- AbortAndRecover, field by field, with and without a send path (R130 to R134). -/
theorem abortAndRecover_fields (k : FramingError) (s : State) :
    ∃ f c i ob, abortAndRecover k s =
        { s with inhFrame := f, clkDrive := c, inh := i, rdByte := 0x00, rdPos := 0, obs := s.obs ++ ob } ∧
      ((s.cfg.sendPathImplemented = true ∧ f = 0x5FC ∧ c = .low ∧ i = true ∧ ob = [framingEvent k]) ∨
        (s.cfg.sendPathImplemented = false ∧ f = s.inhFrame ∧ c = s.clkDrive ∧ i = s.inh ∧
          ob = [.resendNotImplemented, framingEvent k])) := by
  cases h : s.cfg.sendPathImplemented
  · exact ⟨_, _, _, _, abortAndRecover_stub k s h, .inr ⟨rfl, rfl, rfl, rfl, rfl⟩⟩
  · exact ⟨_, _, _, _, abortAndRecover_send k s h, .inl ⟨rfl, rfl, rfl, rfl, rfl⟩⟩

theorem dequeue_eq_none (s : State) : dequeue s = none ↔ s.queue = [] := by
  unfold dequeue; split <;> simp_all

theorem dequeue_eq_some (s t : State) (b : Byte) :
    dequeue s = some (b, t) ↔ ∃ rest, s.queue = b :: rest ∧ t = { s with queue := rest } := by
  unfold dequeue; split <;> simp_all [eq_comm]

theorem fetch_eq_none (s : State) : fetch s = none ↔ s.input = [] := by
  unfold fetch; split <;> simp_all

theorem fetch_eq_some (s t : State) (w : Word) :
    fetch s = some (w, t) ↔ ∃ rest, s.input = w :: rest ∧ t = { s with input := rest } := by
  unfold fetch; split <;> simp_all [eq_comm]

@[simp] theorem fetch_supplyWord (w : Word) (s : State) : fetch (supplyWord w s) = some (w, s) := rfl

end Sys2Proof.Machine
end

