-- ==== Sys2Proof/Laws/Exec.lean ====
section
/-! SUPPORT. What each operation can do when it answers a next state, one inversion lemma an operation, and the same of a word and of
a step. Proofs about all operations split these and never unfold `exec`. -/

namespace Sys2Proof.Machine

theorem exec_fall_next {l : Bit} {s t : State} (h : exec (.fall l) s = .next t) :
    (s.mode = .read ∧ s.rdPos ≤ 10 ∧ t = respond .ok 0x00 (readBit l s)) ∨
    (s.mode = .write ∧ 1 ≤ s.wrPos ∧ s.wrPos ≤ 10 ∧ t = respond .ok 0x00 (writeBit s)) ∨
    (s.mode = .write ∧ ¬(1 ≤ s.wrPos ∧ s.wrPos ≤ 10) ∧ t = respond .ok 0x00 s) := by
  simp only [exec, execFall] at h
  split at h
  · rename_i hm
    split at h
    · cases h; exact .inl ⟨hm, ‹_›, rfl⟩
    · cases h
  · rename_i hm
    cases h
    by_cases hp : 1 ≤ s.wrPos ∧ s.wrPos ≤ 10
    · exact .inr (.inl ⟨hm, hp.1, hp.2, by rw [if_pos hp]⟩)
    · exact .inr (.inr ⟨hm, hp, by rw [if_neg hp]⟩)

theorem exec_rise_next {l : Bit} {s t : State} (h : exec (.rise l) s = .next t) :
    (s.mode = .write ∧ s.wrPos = 11 ∧ t = respond .ok 0x00 (ackCheck l s)) ∨
    (¬(s.mode = .write ∧ s.wrPos = 11) ∧ t = respond .ok 0x00 s) := by
  simp only [exec, execRise] at h
  cases h
  by_cases hp : s.mode = .write ∧ s.wrPos = 11
  · exact .inl ⟨hp.1, hp.2, by rw [if_pos hp]⟩
  · exact .inr ⟨hp, by rw [if_neg hp]⟩

theorem exec_write_next {d : Byte} {s t : State} (h : exec (.write d) s = .next t) :
    (s.cfg.sendPathImplemented = true ∧ t = respond .ok 0x00 (sendPhase1 d s)) ∨
    (s.cfg.sendPathImplemented = false ∧ t = respond .notImplemented 0x00 s) := by
  simp only [exec, execWrite] at h
  cases hp : s.cfg.sendPathImplemented <;> simp [hp] at h
  · exact .inr ⟨rfl, h.symm⟩
  · exact .inl ⟨rfl, h.symm⟩

theorem exec_inhdone_next {s t : State} (h : exec .inhdone s = .next t) :
    (s.inh = true ∧ t = respond .ok 0x00 (commitWrite s)) ∨ (s.inh = false ∧ t = respond .ok 0x00 s) := by
  simp only [exec, execInhdone] at h
  cases hp : s.inh <;> simp [hp] at h
  · exact .inr ⟨rfl, h.symm⟩
  · exact .inl ⟨rfl, h.symm⟩

theorem exec_read_next {s t : State} (h : exec .read s = .next t) :
    (s.rdWait = true ∧ t = respond .busy 0x00 s) ∨
    (s.rdWait = false ∧ ∃ b rest, s.queue = b :: rest ∧ t = respond .data b { s with queue := rest }) ∨
    (s.rdWait = false ∧ s.queue = [] ∧ t = respond .pending 0x00 { s with rdWait := true }) := by
  simp only [exec, execRead] at h
  cases hp : s.rdWait <;> simp [hp] at h
  · cases hd : dequeue s with
    | none =>
      rw [hd] at h
      simp only [Host.Outcome.next.injEq] at h
      exact .inr (.inr ⟨rfl, (dequeue_eq_none s).1 hd, h.symm⟩)
    | some p =>
      obtain ⟨b, u⟩ := p
      obtain ⟨rest, hq, rfl⟩ := (dequeue_eq_some s u b).1 hd
      rw [hd] at h
      simp only [Host.Outcome.next.injEq] at h
      exact .inr (.inl ⟨rfl, b, rest, hq, by rw [← h, ← hp]⟩)
  · exact .inl ⟨rfl, h.symm⟩

theorem exec_rtmo_next {s t : State} (h : exec .rtmo s = .next t) :
    (s.rdWait = true ∧ t = respond .ok 0x00 { s with rdWait := false, rdDone := s.rdDone ++ [.timeout] }) ∨
    (s.rdWait = false ∧ t = respond .ok 0x00 s) := by
  simp only [exec, execRtmo] at h
  cases hp : s.rdWait <;> simp [hp] at h
  · exact .inr ⟨rfl, h.symm⟩
  · exact .inl ⟨rfl, h.symm⟩

theorem exec_regcb_next {d : Byte} {s t : State} (h : exec (.regcb d) s = .next t) :
    (d = 0x00 ∧ t = respond .configError 0x00 s) ∨
    (d ≠ 0x00 ∧ t = respond .ok 0x00 { s with cbReg := true, cbHandle := d }) := by
  simp only [exec, execRegcb] at h
  by_cases hp : d = 0x00 <;> simp only [hp, if_true, if_false, Host.Outcome.next.injEq] at h
  · exact .inl ⟨hp, h.symm⟩
  · exact .inr ⟨hp, h.symm⟩

theorem exec_unregcb_next {s t : State} (h : exec .unregcb s = .next t) :
    t = respond .ok 0x00 { s with cbReg := false, cbHandle := 0x00 } := by
  simp only [exec, execUnregcb] at h
  cases h; rfl

theorem exec_enable_next {s t : State} (h : exec .enable s = .next t) :
    (s.enabled = true ∧ t = respond .ok 0x00 s) ∨
    (s.enabled = false ∧ t = respond .ok 0x00 { s with queue := [], enabled := true }) := by
  simp only [exec, execEnable] at h
  cases hp : s.enabled <;> simp [hp] at h
  · exact .inr ⟨rfl, h.symm⟩
  · exact .inl ⟨rfl, h.symm⟩

theorem exec_disable_next {s t : State} (h : exec .disable s = .next t) :
    t = respond .ok 0x00 { s with enabled := false } := by
  simp only [exec, execDisable] at h
  cases h; rfl

theorem exec_ackst_next {s t : State} (h : exec .ackst s = .next t) :
    t = respond .ok ((ackCode s.ackStatus).zeroExtend 8) s := by
  simp only [exec, execAckst] at h
  cases h; rfl

/-- While a READ waits an operation lets it wait, with no record, or completes it with one (R210, R214). -/
theorem exec_while_waiting {i : Instr} {s t : State} (h : exec i s = .next t) (hw : s.rdWait = true) :
    (t.rdWait = true ∧ t.rdDone = s.rdDone) ∨ (t.rdWait = false ∧ ∃ c, t.rdDone = s.rdDone ++ [c]) := by
  cases i with
  | fall l =>
    rcases exec_fall_next h with ⟨-, hp, rfl⟩ | ⟨-, -, -, rfl⟩ | ⟨-, -, rfl⟩
    · rcases readBit_cases l s hp with ⟨-, -, hr⟩ | ⟨-, -, hr⟩ | ⟨-, -, hr⟩ | ⟨-, -, hr⟩ | ⟨k, -, hr⟩
      · simp [hr, hw]
      · simp [hr, hw]
      · simp [hr, hw]
      · obtain ⟨q, rw, rd, ob, cb, hd, hc⟩ := deliverByte_fields s.rdByte s
        rcases hc with ⟨rfl, rfl, rfl, rfl, rfl⟩ | ⟨-, rfl, rfl, rfl, rfl, rfl⟩ | ⟨hn, -⟩ | ⟨hn, -⟩
        · simp [hr, hd, hw]
        · simp [hr, hd]
        · simp [hw] at hn
        · simp [hw] at hn
      · obtain ⟨f, c, j, ob, ha, -⟩ := abortAndRecover_fields k s
        simp [hr, ha, hw]
    · simp [hw]
    · simp [hw]
  | rise l => rcases exec_rise_next h with ⟨-, -, rfl⟩ | ⟨-, rfl⟩ <;> simp [hw]
  | write d => rcases exec_write_next h with ⟨-, rfl⟩ | ⟨-, rfl⟩ <;> simp [hw]
  | inhdone => rcases exec_inhdone_next h with ⟨-, rfl⟩ | ⟨-, rfl⟩ <;> simp [hw]
  | read =>
    rcases exec_read_next h with ⟨-, rfl⟩ | ⟨hn, -⟩ | ⟨hn, -⟩
    · simp [hw]
    · simp [hw] at hn
    · simp [hw] at hn
  | rtmo =>
    rcases exec_rtmo_next h with ⟨-, rfl⟩ | ⟨hn, -⟩
    · simp
    · simp [hw] at hn
  | regcb d => rcases exec_regcb_next h with ⟨-, rfl⟩ | ⟨-, rfl⟩ <;> simp [hw]
  | unregcb => rw [exec_unregcb_next h]; simp [hw]
  | enable => rcases exec_enable_next h with ⟨-, rfl⟩ | ⟨-, rfl⟩ <;> simp [hw]
  | disable => rw [exec_disable_next h]; simp [hw]
  | ackst => rw [exec_ackst_next h]; simp [hw]

/-- During the inhibit every operation but INHDONE leaves it and keeps the clock low (R150, R153). -/
theorem exec_during_inhibit {i : Instr} {s t : State} (h : exec i s = .next t) (hi : i ≠ .inhdone)
    (hs : s.clkDrive = .low ∧ s.inh = true) : t.clkDrive = .low ∧ t.inh = true := by
  obtain ⟨hc, hn⟩ := hs
  cases i with
  | fall l =>
    rcases exec_fall_next h with ⟨-, hp, rfl⟩ | ⟨-, -, -, rfl⟩ | ⟨-, -, rfl⟩
    · rcases readBit_cases l s hp with ⟨-, -, hr⟩ | ⟨-, -, hr⟩ | ⟨-, -, hr⟩ | ⟨-, -, hr⟩ | ⟨k, -, hr⟩
      · simp [hr, hc, hn]
      · simp [hr, hc, hn]
      · simp [hr, hc, hn]
      · obtain ⟨q, rw, rd, ob, cb, hd, -⟩ := deliverByte_fields s.rdByte s
        simp [hr, hd, hc, hn]
      · obtain ⟨f, c, j, ob, ha, hcase⟩ := abortAndRecover_fields k s
        rcases hcase with ⟨-, rfl, rfl, rfl, rfl⟩ | ⟨-, rfl, rfl, rfl, rfl⟩
        · simp [hr, ha]
        · simp [hr, ha, hc, hn]
    · simp [hc, hn]
    · simp [hc, hn]
  | rise l => rcases exec_rise_next h with ⟨-, -, rfl⟩ | ⟨-, rfl⟩ <;> simp [hc, hn]
  | write d => rcases exec_write_next h with ⟨-, rfl⟩ | ⟨-, rfl⟩ <;> simp [hc, hn]
  | inhdone => exact absurd rfl hi
  | read => rcases exec_read_next h with ⟨-, rfl⟩ | ⟨-, b, rest, -, rfl⟩ | ⟨-, -, rfl⟩ <;> simp [hc, hn]
  | rtmo => rcases exec_rtmo_next h with ⟨-, rfl⟩ | ⟨-, rfl⟩ <;> simp [hc, hn]
  | regcb d => rcases exec_regcb_next h with ⟨-, rfl⟩ | ⟨-, rfl⟩ <;> simp [hc, hn]
  | unregcb => rw [exec_unregcb_next h]; simp [hc, hn]
  | enable => rcases exec_enable_next h with ⟨-, rfl⟩ | ⟨-, rfl⟩ <;> simp [hc, hn]
  | disable => rw [exec_disable_next h]; simp [hc, hn]
  | ackst => rw [exec_ackst_next h]; simp [hc, hn]

/-- A word's effect is that of the operation it decodes to, or the answer to an ILLEGAL word (R81, R218). -/
theorem applyWord_cases (w : Word) (s : State) :
    (∃ i, decode w = .ok i ∧ applyWord w s = exec i s) ∨
    ((∀ i, decode w ≠ .ok i) ∧ applyWord w s = .next (respondIllegal s)) := by
  unfold applyWord
  cases h : decode w with
  | ok i => exact .inl ⟨i, rfl, rfl⟩
  | error e => exact .inr ⟨by simp, rfl⟩

/-- A step idles, or takes one word and applies it. -/
theorem step_cases (s : State) :
    (s.input = [] ∧ step s = .next s) ∨
    (∃ w rest, s.input = w :: rest ∧ step s = applyWord w { s with input := rest }) := by
  unfold step
  cases h : fetch s with
  | none => exact .inl ⟨(fetch_eq_none s).1 h, rfl⟩
  | some p =>
    obtain ⟨w, t⟩ := p
    obtain ⟨rest, hi, rfl⟩ := (fetch_eq_some s t w).1 h
    exact .inr ⟨w, rest, hi, rfl⟩

/-- What a step can do when it answers a next state: idle, run one operation, or answer an ILLEGAL word. -/
theorem step_next {s t : State} (h : step s = .next t) :
    (s.input = [] ∧ t = s) ∨
    (∃ w rest i, s.input = w :: rest ∧ decode w = .ok i ∧ exec i { s with input := rest } = .next t) ∨
    (∃ w rest, s.input = w :: rest ∧ (∀ i, decode w ≠ .ok i) ∧ t = { s with input := rest, resp := 0x7000 }) := by
  rcases step_cases s with ⟨hi, hs⟩ | ⟨w, rest, hi, hs⟩
  · rw [hs] at h; cases h; exact .inl ⟨hi, rfl⟩
  · rw [hs] at h
    rcases applyWord_cases w { s with input := rest } with ⟨i, hd, ha⟩ | ⟨hd, ha⟩
    · rw [ha] at h; exact .inr (.inl ⟨w, rest, i, hi, hd, h⟩)
    · rw [ha] at h; cases h; exact .inr (.inr ⟨w, rest, hi, hd, rfl⟩)

end Sys2Proof.Machine
end

