-- ==== Sys2Proof/Laws/Runs.lean ====
section
/-! SUPPORT. Runs of several operations (20_memory.md R62). -/

namespace Sys2Proof.Machine

/-- A run over two lists of operations is the run over the second from where the first ends. -/
theorem runOps_append (a b : List Instr) (s : State) :
    runOps (a ++ b) s =
      match runOps a s with
      | .next t => runOps b t
      | .fault r => .fault r
      | .refused r => .refused r := by
  induction a generalizing s with
  | nil => rfl
  | cons i is ih =>
    simp only [List.cons_append, runOps]
    cases exec i s <;> simp [ih]

end Sys2Proof.Machine
end

