-- ==== Sys2Proof/Tests/Slice0.lean ====
section
/-! SUPPORT. Tests whose expected results are the vectors of 95_test_vectors.md (named by their numbers there), the smoke test of the
well-formedness checks, and for every statement of `Certificates/Slice0/Obligations.lean` that has hypotheses a theorem
`test_meets_<statement>` with states and operands that meet them, clause by clause and at the ends of their ranges. -/

open Sys2Proof Sys2Proof.Machine

namespace Sys2Proof.Tests

/-! ## Small states -/

/-- In Read mode at a position, with what has been accumulated. -/
def reading (p : BitVec 4) (b : Byte) : State := { State.reset with rdPos := p, rdByte := b }

/-- The write of 0xED (frame 0x7DA), committed and at a position. -/
def writing (p : BitVec 4) : State :=
  { State.reset with
    mode := .write, wrFrame := 0x7DA, wrPos := p, datDrive := (0x7DA#12).getLsbD (p.toNat - 1), ackStatus := .pending }

/-- The write of 0xED requested and not yet committed. -/
def inhibiting : State := { State.reset with inh := true, inhFrame := 0x7DA, clkDrive := .low }

/-- A READ waits. -/
def waiting : State := { State.reset with rdWait := true }

/-- A machine without a send path. -/
def stub : State := State.resetWith ⟨false, .unbounded⟩

/-- A machine whose queue holds one byte. -/
def small : State := State.resetWith ⟨true, .bounded 1 (by decide)⟩

/-- The state after an operation, if it answers one. -/
def after (i : Instr) (s : State) : Option State :=
  match exec i s with
  | .next t => some t
  | .fault _ => none
  | .refused _ => none

/-- The response to a word, if it answers one. -/
def answer (w : Word) (s : State) : Option Word :=
  match applyWord w s with
  | .next t => some t.resp
  | .fault _ => none
  | .refused _ => none

/-! ## Well-formedness: each check refuses a term that meets the other three (R78, R80) -/

theorem test_reserved_op_is_ill_formed :
    (⟨0xC#4, 0#3, false, 0x00#8⟩ : WordFields).opAssigned = false ∧
    (⟨0x0#4, 0#3, false, 0x00#8⟩ : WordFields).wellFormed = false ∧
    (⟨0xC#4, 0#3, false, 0x00#8⟩ : WordFields).wellFormed = false := by decide

theorem test_reserved_bits_are_ill_formed :
    (⟨0x1#4, 1#3, false, 0x00#8⟩ : WordFields).reservedClear = false ∧
    (⟨0x1#4, 1#3, false, 0x00#8⟩ : WordFields).wellFormed = false := by decide

theorem test_level_bit_is_ill_formed :
    (⟨0x3#4, 0#3, true, 0x00#8⟩ : WordFields).levelAllowed = false ∧
    (⟨0x3#4, 0#3, true, 0x00#8⟩ : WordFields).wellFormed = false := by decide

theorem test_operand_byte_is_ill_formed :
    (⟨0x4#4, 0#3, false, 0x01#8⟩ : WordFields).operandAllowed = false ∧
    (⟨0x4#4, 0#3, false, 0x01#8⟩ : WordFields).wellFormed = false := by decide

/-! ## Decoding: words written out from OP ++ RSV ++ L ++ D (R75, R79) -/

theorem test_decode_fall :
    decode 0b0001000000000000#16 = .ok (.fall false) ∧ decode 0b0001000100000000#16 = .ok (.fall true) := ⟨rfl, rfl⟩
theorem test_decode_rise :
    decode 0b0010000000000000#16 = .ok (.rise false) ∧ decode 0b0010000100000000#16 = .ok (.rise true) := ⟨rfl, rfl⟩
theorem test_decode_write :
    decode 0b0011000011101101#16 = .ok (.write 0xED) ∧ decode 0b0011000011111111#16 = .ok (.write 0xFF) := ⟨rfl, rfl⟩
theorem test_decode_inhdone : decode 0b0100000000000000#16 = .ok .inhdone := rfl
theorem test_decode_read : decode 0b0101000000000000#16 = .ok .read := rfl
theorem test_decode_rtmo : decode 0b0110000000000000#16 = .ok .rtmo := rfl
theorem test_decode_regcb :
    decode 0b0111000000000001#16 = .ok (.regcb 0x01) ∧ decode 0b0111000011111111#16 = .ok (.regcb 0xFF) := ⟨rfl, rfl⟩
theorem test_decode_unregcb : decode 0b1000000000000000#16 = .ok .unregcb := rfl
theorem test_decode_enable : decode 0b1001000000000000#16 = .ok .enable := rfl
theorem test_decode_disable : decode 0b1010000000000000#16 = .ok .disable := rfl
theorem test_decode_ackst : decode 0b1011000000000000#16 = .ok .ackst := rfl

/-- L2.6, with the condition each word breaks. -/
theorem test_decode_illegal :
    decode 0x0000#16 = .error .reservedOp ∧ decode 0xC000#16 = .error .reservedOp ∧ decode 0xFFFF#16 = .error .reservedOp ∧
    decode 0x1200#16 = .error .reservedBits ∧ decode 0x7200#16 = .error .reservedBits ∧
    decode 0x3100#16 = .error .levelBit ∧ decode 0x5100#16 = .error .levelBit ∧
    decode 0x1001#16 = .error .operandByte ∧ decode 0x21FF#16 = .error .operandByte ∧ decode 0xB0FF#16 = .error .operandByte :=
  ⟨rfl, rfl, rfl, rfl, rfl, rfl, rfl, rfl, rfl, rfl⟩

theorem test_decodeTableWord :
    decodeTableWord 16 0x1100 = some (.fall true) ∧ decodeTableWord 16 0x30ED = some (.write 0xED) ∧
    decodeTableWord 16 0x1200 = none ∧ decodeTableWord 32 0x1100 = none ∧ decodeTableWord 8 0x1100 = none := by decide

theorem test_encode : encode (.fall true) = 0x1100#16 ∧ encode (.regcb 0xFF) = 0x70FF#16 := by decide

/-- P1's first line in the syntax of R83. -/
theorem test_assembler :
    assembleText ["RXFRAME 0x41 ; a frame".toList, "READ".toList, "; nothing".toList] =
      some [0x1000, 0x1100, 0x1000, 0x1000, 0x1000, 0x1000, 0x1000, 0x1100, 0x1000, 0x1100, 0x1100, 0x5000] ∧
    assembleText ["FALL 2".toList] = none := by decide

/-! ## One step: at most two an operation -/

/-- R-1, R-2, R-5, R-7, R-9, and the deliveries D-2, D-4, D-5, D-6. -/
theorem test_fall_in_read_mode :
    after (.fall false) State.reset = some { State.reset with rdPos := 1 } ∧
    after (.fall true) State.reset = some { inhibiting with inhFrame := 0x5FC, obs := [.framingStart] } ∧
    after (.fall true) (reading 8 0x41) = some (reading 9 0xC1) ∧
    after (.fall false) (reading 9 0x41) = some { inhibiting with inhFrame := 0x5FC, obs := [.framingParity] } ∧
    after (.fall true) (reading 10 0x41) = some { State.reset with queue := [0x41] } ∧
    after (.fall true) { reading 10 0x41 with cbReg := true, cbHandle := 0x07, rdWait := true } =
      some { waiting with cbReg := true, cbHandle := 0x07, cbOut := [⟨0x07, 0x41⟩] } ∧
    after (.fall true) { reading 10 0x41 with rdWait := true } = some { State.reset with rdDone := [.data 0x41] } ∧
    after (.fall true) { small with rdPos := 10, rdByte := 0x41, queue := [0x10] } =
      some { small with queue := [0x10], obs := [.queueOverflow] } := by decide

/-- M-2 and W-7. -/
theorem test_fall_in_write_mode :
    after (.fall true) (writing 3) = some (writing 4) ∧ after (.fall false) (writing 11) = some (writing 11) := by decide

/-- W-8, then M-4 (a second RISE after the ack check is ignored, R181), and W-10. -/
theorem test_rise_acknowledges :
    after (.rise false) (writing 11) = some { State.reset with ackStatus := .ack, obs := [.writeAck] } ∧
    (∀ l, after (.rise l) { State.reset with ackStatus := .ack, obs := [.writeAck] } =
      some { State.reset with ackStatus := .ack, obs := [.writeAck] }) ∧
    after (.rise false) (writing 5) = some (writing 5) := by decide

/-- W-9. -/
theorem test_rise_rejects :
    after (.rise true) (writing 11) = some { State.reset with ackStatus := .nack, obs := [.writeNack] } := by decide

/-- W-1, W-2. -/
theorem test_write :
    after (.write 0xED) State.reset = some inhibiting ∧ after (.write 0xED) stub = some { stub with resp := 0x4000 } := by decide

/-- W-3 in the middle of a read (L1-7), W-4. -/
theorem test_inhdone :
    after .inhdone { inhibiting with rdPos := 3, rdByte := 0x01 } = some { writing 1 with datDrive := false } ∧
    after .inhdone State.reset = some State.reset := by decide

/-- C-9, C-10, C-11. -/
theorem test_read :
    after .read { State.reset with queue := [0x11, 0x22] } = some { State.reset with queue := [0x22], resp := 0x1011 } ∧
    after .read State.reset = some { waiting with resp := 0x2000 } ∧
    after .read waiting = some { waiting with resp := 0x6000 } := by decide

/-- C-12, C-13. -/
theorem test_rtmo :
    after .rtmo waiting = some { State.reset with rdDone := [.timeout] } ∧ after .rtmo State.reset = some State.reset := by decide

/-- C-3, C-2. -/
theorem test_regcb :
    after (.regcb 0xFF) { State.reset with cbReg := true, cbHandle := 0x01 } =
      some { State.reset with cbReg := true, cbHandle := 0xFF } ∧
    after (.regcb 0x00) State.reset = some { State.reset with resp := 0x5000 } := by decide

/-- C-4. -/
theorem test_unregcb :
    after .unregcb { State.reset with cbReg := true, cbHandle := 0x01 } = some State.reset := by decide

/-- C-7, C-6. -/
theorem test_enable :
    after .enable { State.reset with enabled := false, queue := [0x11, 0x22] } = some State.reset ∧
    after .enable { State.reset with queue := [0x11] } = some { State.reset with queue := [0x11] } := by decide

/-- C-8. -/
theorem test_disable : after .disable State.reset = some { State.reset with enabled := false } := by decide

/-- C-15, C-16. -/
theorem test_ackst :
    after .ackst State.reset = some State.reset ∧
    after .ackst { State.reset with ackStatus := .pending } = some { State.reset with ackStatus := .pending, resp := 0x0001 } ∧
    after .ackst { State.reset with ackStatus := .nack } = some { State.reset with ackStatus := .nack, resp := 0x0003 } := by decide

/-- The codec's table, L2.1. -/
theorem test_codec :
    parityOf 0x00 = true ∧ parityOf 0x01 = false ∧ encodeWriteFrame 0xED = 0x7DA ∧ encodeWriteFrame 0x80 = 0x500 ∧
    checkParity 0x03 true = true ∧ checkParity 0xFE true = false := by decide

/-- The step at the host's word, and the answer to an ILLEGAL word. -/
theorem test_step_at_fetch_word :
    step (State.reset.withFetchWord 16 0x30ED) = .next inhibiting ∧
    step (State.reset.withFetchWord 16 0x0000) = .next { State.reset with resp := 0x7000 } := ⟨rfl, rfl⟩

/-! ## States and operands that meet the hypotheses of the statements -/

theorem test_meets_EncodeOfDecodeIsTheWord : ∃ (w : Word) (i : Instr), decode w = .ok i := ⟨0x30ED, .write 0xED, rfl⟩

theorem test_meets_IllegalWordOnlyResponds :
    ∃ (s : State) (w : Word) (rest : List Word), (fieldsOf w).wellFormed = false ∧ s.input = w :: rest :=
  ⟨{ State.reset with input := [0x1200] }, 0x1200, [], rfl, rfl⟩

theorem test_meets_StepRunsTheDecodedOperation :
    ∃ (s : State) (w : Word) (rest : List Word) (i : Instr), s.input = w :: rest ∧ decode w = .ok i :=
  ⟨{ State.reset with input := [0x5000, 0x6000] }, 0x5000, [0x6000], .read, rfl, rfl⟩

theorem test_meets_StepIdlesWithoutInput : State.reset.input = [] := rfl

theorem test_meets_EveryOperationCompletes :
    ∃ (s : State) (i : Instr), (∀ l, i = .fall l → s.mode = .read → s.rdPos ≤ 10) ∧ i = .fall true ∧ s.rdPos = 10 :=
  ⟨reading 10 0x41, .fall true, fun _ _ _ => by decide, rfl, rfl⟩

theorem test_meets_ParityCheckCatchesOneFlippedBit : (0 < 8 ∧ 7 < 8 ∧ (0 : Nat) ≠ 7) ∧ checkParity 0x41 true = true := by decide

theorem test_meets_FallAtStartBit : State.reset.mode = .read ∧ State.reset.rdPos = 0 := by decide

theorem test_meets_FallAtDataBit :
    ((reading 1 0x00).mode = .read ∧ 1 ≤ (reading 1 0x00).rdPos ∧ (reading 1 0x00).rdPos ≤ 8) ∧
    ((reading 8 0x41).mode = .read ∧ 1 ≤ (reading 8 0x41).rdPos ∧ (reading 8 0x41).rdPos ≤ 8) := by decide

theorem test_meets_FallAtParityBit :
    ((reading 9 0x41).mode = .read ∧ (reading 9 0x41).rdPos = 9) ∧
    true = parityOf (reading 9 0x41).rdByte ∧ false ≠ parityOf (reading 9 0x41).rdByte := by decide

theorem test_meets_FallAtStopBit : (reading 10 0x41).mode = .read ∧ (reading 10 0x41).rdPos = 10 := by decide

theorem test_meets_CompletedByteIsDelivered_callback :
    ∃ s : State, s.mode = .read ∧ s.rdPos = 10 ∧ s.cbReg = true ∧ s.enabled = true :=
  ⟨{ reading 10 0x41 with cbReg := true, cbHandle := 0x07 }, by decide⟩

theorem test_meets_CompletedByteIsDelivered_waiting :
    ∃ s : State, s.mode = .read ∧ s.rdPos = 10 ∧ (s.cbReg = false ∨ s.enabled = false) ∧ s.rdWait = true :=
  ⟨{ reading 10 0x41 with cbReg := true, cbHandle := 0x07, enabled := false, rdWait := true }, by decide⟩

theorem test_meets_CompletedByteIsDelivered_room :
    ∃ s : State, s.mode = .read ∧ s.rdPos = 10 ∧ (s.cbReg = false ∨ s.enabled = false) ∧ s.rdWait = false ∧
      ∀ cap h, s.cfg.queueCap = .bounded cap h → s.queue.length < cap :=
  ⟨{ small with rdPos := 10, rdByte := 0x41 }, rfl, rfl, .inl rfl, rfl, by
    intro cap h he; cases he; exact Nat.one_pos⟩

theorem test_meets_CompletedByteIsDelivered_full :
    ∃ s : State, s.mode = .read ∧ s.rdPos = 10 ∧ (s.cbReg = false ∨ s.enabled = false) ∧ s.rdWait = false ∧
      ∃ cap h, s.cfg.queueCap = .bounded cap h ∧ cap ≤ s.queue.length :=
  ⟨{ small with rdPos := 10, rdByte := 0x41, queue := [0x10] }, rfl, rfl, .inl rfl, rfl, 1, by decide, rfl, Nat.le_refl 1⟩

theorem test_meets_FramingErrorAbortsAndRecovers :
    (State.reset.mode = .read ∧ State.reset.rdPos = 0 ∧ State.reset.cfg.sendPathImplemented = true) ∧
    ((reading 9 0x41).mode = .read ∧ (reading 9 0x41).rdPos = 9 ∧ checkParity (reading 9 0x41).rdByte false = false) ∧
    ((reading 10 0x41).mode = .read ∧ (reading 10 0x41).rdPos = 10) ∧
    (stub.mode = .read ∧ stub.rdPos = 0 ∧ stub.cfg.sendPathImplemented = false) := by decide

theorem test_meets_FallBeyondStopBitStops :
    ((reading 11 0x00).mode = .read ∧ 10 < (reading 11 0x00).rdPos) ∧
    ((reading 15 0x00).mode = .read ∧ 10 < (reading 15 0x00).rdPos) := by decide

theorem test_meets_ElevenSamplesDeliverExactlyGoodFrames :
    (State.reset.mode = .read ∧ State.reset.rdPos = 0) ∧
    (false = false ∧ checkParity 0x41 true = true ∧ true = true) ∧
    ¬(false = false ∧ checkParity 0x41 false = true ∧ true = true) := by decide

theorem test_meets_FramesAreQueuedInOrder :
    ∃ (bs : List Byte) (s : State), bs.length = 1 ∧ s.mode = .read ∧ s.rdPos = 0 ∧ s.rdByte = 0x00 ∧ s.resp = 0x0000 ∧
      (s.cbReg = false ∨ s.enabled = false) ∧ s.rdWait = false ∧
      ∀ cap h, s.cfg.queueCap = .bounded cap h → s.queue.length + bs.length ≤ cap :=
  ⟨[0x41], small, rfl, rfl, rfl, rfl, rfl, .inl rfl, rfl, by intro cap h he; cases he; exact Nat.le_refl 1⟩

theorem test_meets_WriteBeginsInhibit :
    State.reset.cfg.sendPathImplemented = true ∧ stub.cfg.sendPathImplemented = false := by decide

theorem test_meets_InhdoneCommitsThePendingWrite : inhibiting.inh = true ∧ State.reset.inh = false := by decide

theorem test_meets_FallInWriteModeDrivesTheFrame :
    ((writing 1).mode = .write ∧ 1 ≤ (writing 1).wrPos ∧ (writing 1).wrPos ≤ 10) ∧
    ((writing 10).mode = .write ∧ 1 ≤ (writing 10).wrPos ∧ (writing 10).wrPos ≤ 10) ∧
    ((writing 0).mode = .write ∧ (writing 0).wrPos = 0) ∧
    ((writing 11).mode = .write ∧ 10 < (writing 11).wrPos) ∧ ((writing 15).mode = .write ∧ 10 < (writing 15).wrPos) := by decide

theorem test_meets_RiseChecksTheAck :
    ((writing 11).mode = .write ∧ (writing 11).wrPos = 11) ∧ State.reset.mode = .read ∧ (writing 10).wrPos ≠ 11 := by decide

theorem test_meets_DataLineCarriesTheFrame :
    State.reset.cfg.sendPathImplemented = true ∧ ([] : List Bit).length ≤ 10 ∧ (List.replicate 10 true).length ≤ 10 := by decide

theorem test_meets_WholeWriteEndsAtRest :
    (writing 5).cfg.sendPathImplemented = true ∧ (List.replicate 10 false).length = 10 := by decide

theorem test_meets_LatestWriteReachesTheWire : (reading 5 0x01).cfg.sendPathImplemented = true := by decide

theorem test_meets_StubSendPathStaysInReadMode :
    ∃ s t : State, s.cfg.sendPathImplemented = false ∧ s.inh = false ∧ s.mode = .read ∧ s.input ≠ [] ∧ step s = .next t :=
  ⟨{ stub with input := [0x30ED] }, { stub with resp := 0x4000 }, rfl, rfl, rfl, by decide, rfl⟩

theorem test_meets_ModeChangesOnlyByCommitAndAck :
    (∃ t, exec .inhdone inhibiting = .next t ∧ t.mode ≠ inhibiting.mode ∧ inhibiting.inh = true) ∧
    (∃ t, exec (.rise true) (writing 11) = .next t ∧ t.mode ≠ (writing 11).mode ∧ (writing 11).wrPos = 11) :=
  ⟨⟨_, rfl, by decide, rfl⟩, ⟨_, rfl, by decide, rfl⟩⟩

theorem test_meets_OneMachineOwnsTheEdges :
    ((reading 10 0x41).mode = .read ∧ (reading 10 0x41).rdPos ≤ 10) ∧ (writing 11).mode = .write ∧
    (State.reset.mode = .read ∧ ∃ t, exec (.fall true) State.reset = .next t) ∧
    (State.reset.mode = .read ∧ ∃ t, exec (.rise true) State.reset = .next t) ∧
    ((writing 10).mode = .write ∧ ∃ t, exec (.fall true) (writing 10) = .next t) ∧
    ((writing 10).mode = .write ∧ (writing 10).wrPos ≠ 11 ∧ ∃ t, exec (.rise true) (writing 10) = .next t) :=
  ⟨⟨rfl, by decide⟩, rfl, ⟨rfl, _, rfl⟩, ⟨rfl, _, rfl⟩, ⟨rfl, _, rfl⟩, ⟨rfl, by decide, _, rfl⟩⟩

theorem test_meets_OnlyEdgesReadTheMode :
    ((∀ l, Instr.inhdone ≠ .fall l) ∧ (∀ l, Instr.inhdone ≠ .rise l) ∧ ∃ t, exec .inhdone inhibiting = .next t) ∧
    ((∀ l, Instr.disable ≠ .fall l) ∧ (∀ l, Instr.disable ≠ .rise l) ∧ ∃ t, exec .disable (writing 5) = .next t) :=
  ⟨⟨by decide, by decide, _, rfl⟩, ⟨by decide, by decide, _, rfl⟩⟩

theorem test_meets_LevelIsReadOnlyWhereTheRulesSay :
    (writing 5).mode = .write ∧ (reading 5 0x01).mode = .read ∧ (writing 5).wrPos ≠ 11 := by decide

theorem test_meets_RegcbRegistersNonzeroHandles : (0x01 : Byte) ≠ 0x00 ∧ (0xFF : Byte) ≠ 0x00 ∧ (0x00 : Byte) = 0x00 := by decide

theorem test_meets_EnableFlushesOnReenable :
    ({ State.reset with enabled := false } : State).enabled = false ∧ State.reset.enabled = true := by decide

theorem test_meets_ReadServesTheOldestByte :
    waiting.rdWait = true ∧
    (∃ s : State, s.rdWait = false ∧ ∃ b rest, s.queue = b :: rest) ∧
    State.reset.rdWait = false ∧ State.reset.queue = [] :=
  ⟨rfl, ⟨{ State.reset with queue := [0x11] }, rfl, 0x11, [], rfl⟩, rfl, rfl⟩

theorem test_meets_RtmoTimesOutTheWaitingRead : waiting.rdWait = true ∧ State.reset.rdWait = false := by decide

theorem test_meets_ConsumerSetupIsIdempotent :
    (∃ t, exec (.regcb 0x01) State.reset = .next t) ∧ (∃ t, exec (.regcb 0x00) State.reset = .next t) ∧
    (∃ t, exec .unregcb State.reset = .next t) ∧ (∃ t, exec .enable State.reset = .next t) ∧
    (∃ t, exec .disable State.reset = .next t) ∧ ∃ t, exec .ackst State.reset = .next t :=
  ⟨⟨_, rfl⟩, ⟨_, rfl⟩, ⟨_, rfl⟩, ⟨_, rfl⟩, ⟨_, rfl⟩, _, rfl⟩

theorem test_meets_RepeatedEdgesTimersAndWrites :
    (∃ t u, State.reset.cfg.sendPathImplemented = true ∧ exec (.write 0xED) State.reset = .next t ∧
      exec (.write 0xED) t = .next u) ∧
    (∃ t u, (0xED : Byte) ≠ 0x55 ∧ exec (.write 0xED) State.reset = .next t ∧ exec (.write 0x55) t = .next u) ∧
    (∃ t, exec (.rise true) (writing 11) = .next t) ∧ (∃ t, exec .inhdone inhibiting = .next t) ∧
    (∃ t, exec .rtmo waiting = .next t) ∧ (writing 11).mode = .write ∧ (writing 11).wrPos = 11 :=
  ⟨⟨_, _, rfl, rfl, rfl⟩, ⟨_, _, by decide, rfl, rfl⟩, ⟨_, rfl⟩, ⟨_, rfl⟩, ⟨_, rfl⟩, rfl, rfl⟩

theorem test_meets_OneRecordPerPendingRead :
    (∃ t, exec .read State.reset = .next t ∧ t.resp = 0x2000) ∧ ∃ t, exec .rtmo waiting = .next t ∧ t.resp ≠ 0x2000 :=
  ⟨⟨_, rfl, rfl⟩, _, rfl, by decide⟩

/-- I1 to I10 in a state of each mode, in the inhibit phase and while a READ waits. -/
theorem test_meets_StepKeepsTheInvariants :
    (StateInv { writing 11 with input := [0x2000] } ∧ ∃ t, step { writing 11 with input := [0x2000] } = .next t) ∧
    StateInv (reading 8 0x41) ∧ StateInv inhibiting ∧ StateInv waiting :=
  ⟨⟨⟨by decide, by decide, by decide, by decide, by decide, by decide, by decide, by decide, by decide, by decide⟩, _, rfl⟩,
    ⟨by decide, by decide, by decide, by decide, by decide, by decide, by decide, by decide, by decide, by decide⟩,
    ⟨by decide, by decide, by decide, by decide, by decide, by decide, by decide, by decide, by decide, by decide⟩,
    ⟨by decide, by decide, by decide, by decide, by decide, by decide, by decide, by decide, by decide, by decide⟩⟩

theorem test_meets_FairTimerEndsEveryWait :
    ∃ (env : Nat → Word) (s : State), StateInv s ∧ ReadTimerFair env s ∧ ∃ t, stateAt env s 0 = .next t ∧ t.rdWait = true :=
  ⟨fun _ => 0x6000, waiting, test_meets_StepKeepsTheInvariants.2.2.2, fun n _ => ⟨n, Nat.le_refl n, test_decode_rtmo⟩, waiting, rfl, rfl⟩

theorem test_meets_EdgeAndTimerOperationsRespondOk :
    (∃ t, exec .inhdone inhibiting = .next t) ∧ (∃ t, exec .rtmo waiting = .next t) ∧
    (∃ t, exec (.fall true) (reading 10 0x41) = .next t) ∧ ∃ t, exec (.rise false) (writing 11) = .next t :=
  ⟨⟨_, rfl⟩, ⟨_, rfl⟩, ⟨_, rfl⟩, _, rfl⟩

/-- Every STATUS the statement speaks of is produced (R86). -/
theorem test_meets_ResponseWordFormat :
    answer 0x9000 State.reset = some 0x0000 ∧ answer 0x5000 { State.reset with queue := [0x11] } = some 0x1011 ∧
    answer 0x5000 State.reset = some 0x2000 ∧ answer 0x30ED stub = some 0x4000 ∧ answer 0x7000 State.reset = some 0x5000 ∧
    answer 0x5000 waiting = some 0x6000 ∧ answer 0x0000 State.reset = some 0x7000 ∧
    answer 0xB000 (writing 5) = some 0x0001 := by decide

theorem test_meets_TracesOnlyGrow :
    ∃ s t : State, s.obs ≠ [] ∧ step s = .next t ∧ t.obs ≠ s.obs :=
  ⟨{ State.reset with obs := [.writeAck], input := [0x1100] }, _, by decide, rfl, by decide⟩

theorem test_meets_OneErrorPerOperation :
    (∃ t, exec (.fall true) stub = .next t ∧ t.obs = stub.obs ++ [.resendNotImplemented, .framingStart]) ∧
    (∃ t, exec (.fall true) { small with rdPos := 10, rdByte := 0x41, queue := [0x10] } = .next t ∧ t.obs = [.queueOverflow]) ∧
    ∃ t, exec (.rise true) (writing 11) = .next t ∧ t.obs = (writing 11).obs ++ [.writeNack] :=
  ⟨⟨_, rfl, rfl⟩, ⟨_, rfl, rfl⟩, _, rfl, rfl⟩

/-- Each field is written by an operation of its row of R40's table. -/
theorem test_meets_OnlyOwnersWriteAField :
    (∃ t, exec .inhdone { inhibiting with rdPos := 3, rdByte := 0x01 } = .next t ∧ t.mode = .write ∧ t.rdPos = 0 ∧
      t.rdByte = 0x00 ∧ t.wrFrame = 0x7DA ∧ t.wrPos = 1 ∧ t.clkDrive = .released ∧ t.inh = false ∧ t.datDrive = false ∧
      t.ackStatus = .pending) ∧
    (∃ t, exec (.regcb 0x07) State.reset = .next t ∧ t.cbReg = true ∧ t.cbHandle = 0x07) ∧
    (∃ t, exec .disable State.reset = .next t ∧ t.enabled = false) ∧
    (∃ t, exec (.fall true) (reading 10 0x41) = .next t ∧ t.queue = [0x41]) ∧
    (∃ t, exec .rtmo waiting = .next t ∧ t.rdWait = false ∧ t.rdDone = [.timeout]) ∧
    (∃ t, exec (.rise true) (writing 11) = .next t ∧ t.obs = [.writeNack]) ∧
    ∃ t, exec (.fall true) { reading 10 0x41 with cbReg := true, cbHandle := 0x07 } = .next t ∧ t.cbOut = [⟨0x07, 0x41⟩] :=
  ⟨⟨_, rfl, rfl, rfl, rfl, rfl, rfl, rfl, rfl, rfl, rfl⟩, ⟨_, rfl, rfl, rfl⟩, ⟨_, rfl, rfl⟩, ⟨_, rfl, rfl⟩,
    ⟨_, rfl, rfl, rfl⟩, ⟨_, rfl, rfl⟩, _, rfl, rfl⟩

theorem test_meets_ResetTable : ∃ (cfg : Params) (s : State), s = State.resetWith cfg := ⟨⟨false, .unbounded⟩, stub, rfl⟩

/-- A state two steps after reset. -/
theorem test_meets_RunsFromResetMeetTheInvariants :
    Reachable { State.resetWith ⟨true, .unbounded⟩ with inh := true, inhFrame := 0x7DA, clkDrive := .low, input := [0x4000] } :=
  .step { State.resetWith ⟨true, .unbounded⟩ with input := [0x30ED, 0x4000] } _ (.reset _ _) rfl

theorem test_meets_StepKeepsLegalValues :
    ∃ s t : State, LegalValues s ∧ s.queue ≠ [] ∧ s.wrFrame ≠ 0x000 ∧ step s = .next t :=
  ⟨{ writing 5 with queue := [0x10], cfg := small.cfg, input := [0x1000] }, _,
    ⟨by decide, .inr ⟨0xED, by decide⟩, .inl rfl, by decide, Nat.le_refl 1, by decide, by decide, by decide, by decide⟩,
    by decide, by decide, rfl⟩

/-- A timed run in which a write is requested at 5 and committed when the inhibit timer expires. -/
theorem test_meets_TimersKeepTheirBounds_inhdone :
    ∃ (c : Timers) (s : State) (o : TimedOp), TimedReachable c s ∧ c.allow o ∧ o.op = .inhdone :=
  ⟨_, inhibiting, ⟨5 + Config.tInhibitUs, .inhdone⟩,
    .step _ State.reset inhibiting ⟨5, .write 0xED⟩ (.reset _) ⟨by decide, by simp, by simp⟩ rfl,
    ⟨Nat.le_add_right _ _, fun _ => ⟨5, rfl, Nat.le_refl _⟩, by simp⟩, rfl⟩

/-- A timed run in which a READ waits from 5 until the read timer expires. -/
theorem test_meets_TimersKeepTheirBounds_rtmo :
    ∃ (c : Timers) (s : State) (o : TimedOp), TimedReachable c s ∧ c.allow o ∧ o.op = .rtmo :=
  ⟨_, { waiting with resp := 0x2000 }, ⟨5 + Config.readTimeoutUs, .rtmo⟩,
    .step _ State.reset { waiting with resp := 0x2000 } ⟨5, .read⟩ (.reset _) ⟨by decide, by simp, by simp⟩ rfl,
    ⟨Nat.le_add_right _ _, by simp, fun _ => ⟨5, rfl, Nat.le_refl _⟩⟩, rfl⟩

/-- An inhibit from 5 on, with an ACKST at 6 before the INHDONE. -/
theorem test_meets_TimersKeepTheirBounds_inhibit :
    ∃ (c c' : Timers) (s t u : State) (o e : TimedOp) (between : List TimedOp),
      startsInhibit o.op s = true ∧ exec o.op s = .next t ∧ TimedRun (c.after o s t) t between c' u ∧ between ≠ [] ∧
      (∀ x ∈ between, x.op ≠ .inhdone) ∧ c'.allow e ∧ e.op = .inhdone :=
  ⟨Timers.atReset, _, State.reset, inhibiting, inhibiting, ⟨5, .write 0xED⟩, ⟨5 + Config.tInhibitUs, .inhdone⟩, [⟨6, .ackst⟩],
    rfl, rfl, .cons _ _ _ inhibiting _ _ _ ⟨by decide, by simp, by simp⟩ rfl (.nil _ _), by simp, by simp,
    ⟨by simp [Timers.after, Config.tInhibitUs]; omega, fun _ => ⟨5, rfl, Nat.le_refl _⟩, by simp⟩, rfl⟩

/-- A READ that waits from 5 on, with an ACKST at 5 before the RTMO. -/
theorem test_meets_TimersKeepTheirBounds_read :
    ∃ (c c' : Timers) (s t u : State) (o e : TimedOp) (between : List TimedOp),
      startsReadTimer o.op s = true ∧ exec o.op s = .next t ∧ TimedRun (c.after o s t) t between c' u ∧ between ≠ [] ∧
      u.rdDone = t.rdDone ∧ c'.allow e ∧ e.op = .rtmo :=
  ⟨Timers.atReset, _, State.reset, { waiting with resp := 0x2000 }, waiting, ⟨5, .read⟩, ⟨5 + Config.readTimeoutUs, .rtmo⟩,
    [⟨5, .ackst⟩], rfl, rfl, .cons _ _ _ waiting _ _ _ ⟨by decide, by simp, by simp⟩ rfl (.nil _ _), by simp, rfl,
    ⟨Nat.le_add_right _ _, by simp, fun _ => ⟨5, rfl, Nat.le_refl _⟩⟩, rfl⟩

theorem test_meets_TimersRunExactlyWhilePending : ∃ (c : Timers) (s : State), TimedReachable c s ∧ s.inh = true :=
  ⟨_, inhibiting, .step _ State.reset inhibiting ⟨5, .write 0xED⟩ (.reset _) ⟨by decide, by simp, by simp⟩ rfl, rfl⟩

theorem test_meets_PortsShareNoState :
    (∃ (k j : Nat) (ports ports' : List State) (s t : State), ports[k]? = some s ∧ step s = .next t ∧ s ≠ t ∧
      stepPort k ports = .next ports' ∧ j ≠ k ∧ j < ports.length) ∧
    ∃ (ports : List State) (s : State), ports[1]? = some s ∧ step s = .fault .readPositionUnreachable :=
  ⟨⟨0, 1, [{ State.reset with input := [0xA000] }, writing 5], _, { State.reset with input := [0xA000] }, _, rfl, rfl, by decide, rfl,
      by decide, by decide⟩,
    [State.reset, { reading 11 0x00 with input := [0x1000] }], { reading 11 0x00 with input := [0x1000] }, rfl, rfl⟩

end Sys2Proof.Tests
end

section
/-! SUPPORT. 10_state.md: `Effect` says once, branch by branch, what an operation writes apart from `resp`; `step_keeps` turns "every effect
keeps P" into "every step keeps P". The state invariants, the legal values, the traces and the ownership table follow from these two. -/

namespace Sys2Proof.Machine

/-! ### What an operation writes apart from the response word -/

/-- The sample `l` is a framing error of this kind, by the position it is for (R121, R123, R124). -/
def FramingErrorAt (k : FramingError) (l : Bit) (s : State) : Prop :=
  s.rdPos = 0 ∧ l = true ∧ k = .start ∨ s.rdPos = 9 ∧ checkParity s.rdByte l = false ∧ k = .parity ∨
    s.rdPos = 10 ∧ l = false ∧ k = .stop

/-- `Effect i s u`: operation `i` takes `s` to `u` up to the response word, one constructor for each branch of the rules that
writes something, with the branch's guards. It bounds what an operation can do; `unchanged` does not say when nothing is written. -/
inductive Effect : Instr → State → State → Prop where
  /-- Nothing is written: an ignored edge, an expiry that was not awaited, a refusal, or a readout. -/
  | unchanged (i : Instr) (s : State) : Effect i s s
  /-- A good start bit (R121). -/
  | startBit {s : State} (hm : s.mode = .read) (hp : s.rdPos = 0) : Effect (.fall false) s { s with rdPos := 1 }
  /-- A data bit (R122). -/
  | dataBit {s : State} (l : Bit) (hm : s.mode = .read) (hlo : 1 ≤ s.rdPos) (hhi : s.rdPos ≤ 8) :
      Effect (.fall l) s (readDataBit l s)
  /-- A good parity bit (R123). -/
  | parityBit {s : State} (l : Bit) (hm : s.mode = .read) (hp : s.rdPos = 9) (hc : checkParity s.rdByte l = true) :
      Effect (.fall l) s { s with rdPos := 10 }
  /-- A good stop bit, the byte to the callback (R124, R125). -/
  | toCallback {s : State} (hm : s.mode = .read) (hp : s.rdPos = 10) (hr : s.cbReg = true) (he : s.enabled = true) :
      Effect (.fall true) s (resetReadState (deliverToCallback s.rdByte s))
  /-- A good stop bit, the byte to the waiting READ (R124, R55). -/
  | toWaitingRead {s : State} (hm : s.mode = .read) (hp : s.rdPos = 10) (hnc : s.cbReg = false ∨ s.enabled = false)
      (hw : s.rdWait = true) :
      Effect (.fall true) s (resetReadState { complete (.data s.rdByte) s with rdWait := false })
  /-- A good stop bit, the byte to the queue (R124, R55). -/
  | toQueue {s : State} (hm : s.mode = .read) (hp : s.rdPos = 10) (hnc : s.cbReg = false ∨ s.enabled = false)
      (hw : s.rdWait = false) (hroom : hasRoom s.cfg.queueCap s.queue.length = true) :
      Effect (.fall true) s (resetReadState { s with queue := s.queue ++ [s.rdByte] })
  /-- A good stop bit, the byte dropped at a full queue (R124, R57). -/
  | overflow {s : State} (hm : s.mode = .read) (hp : s.rdPos = 10) (hnc : s.cbReg = false ∨ s.enabled = false)
      (hw : s.rdWait = false) (hfull : hasRoom s.cfg.queueCap s.queue.length = false) :
      Effect (.fall true) s (resetReadState (emit .queueOverflow s))
  /-- A framing error with a send path: the resend is requested (R131). -/
  | resend {s : State} (l : Bit) (k : FramingError) (hm : s.mode = .read) (hk : FramingErrorAt k l s)
      (hc : s.cfg.sendPathImplemented = true) :
      Effect (.fall l) s (emit (framingEvent k) (resetReadState (sendPhase1 resendByte s)))
  /-- A framing error without one: the missing resend is reported (R134). -/
  | resendMissing {s : State} (l : Bit) (k : FramingError) (hm : s.mode = .read) (hk : FramingErrorAt k l s)
      (hc : s.cfg.sendPathImplemented = false) :
      Effect (.fall l) s (emit (framingEvent k) (resetReadState (emit .resendNotImplemented s)))
  /-- The next bit of a write (R155). -/
  | writeBit {s : State} (l : Bit) (hm : s.mode = .write) (hlo : 1 ≤ s.wrPos) (hhi : s.wrPos ≤ 10) :
      Effect (.fall l) s (writeBit s)
  /-- The ack check (R157). -/
  | ackCheck {s : State} (l : Bit) (hm : s.mode = .write) (hp : s.wrPos = 11) : Effect (.rise l) s (ackCheck l s)
  /-- A WRITE's first phase (R152). -/
  | send {s : State} (d : Byte) (hc : s.cfg.sendPathImplemented = true) : Effect (.write d) s (sendPhase1 d s)
  /-- The commit of a pending write (R153). -/
  | commit {s : State} (hi : s.inh = true) : Effect .inhdone s (commitWrite s)
  /-- A READ that takes the oldest byte (R210). -/
  | takeByte {s : State} {b : Byte} {rest : List Byte} (hw : s.rdWait = false) (hq : s.queue = b :: rest) :
      Effect .read s { s with queue := rest }
  /-- A READ that begins to wait (R210). -/
  | wait {s : State} (hw : s.rdWait = false) (hq : s.queue = []) : Effect .read s { s with rdWait := true }
  /-- The waiting READ times out (R212). -/
  | timeout {s : State} (hw : s.rdWait = true) :
      Effect .rtmo s { s with rdWait := false, rdDone := s.rdDone ++ [.timeout] }
  /-- A callback is registered (R201). -/
  | register {s : State} (d : Byte) (hd : d ≠ 0x00) : Effect (.regcb d) s { s with cbReg := true, cbHandle := d }
  /-- The callback is removed (R202). -/
  | unregister (s : State) : Effect .unregcb s { s with cbReg := false, cbHandle := 0x00 }
  /-- A re-enable flushes the queue (R203). -/
  | reenable {s : State} (he : s.enabled = false) : Effect .enable s { s with queue := [], enabled := true }
  /-- Delivery is disabled (R204). -/
  | disable (s : State) : Effect .disable s { s with enabled := false }

/-- A Read-mode FALL at a position that the rules name has one of the read machine's effects (R120). -/
theorem readBit_effect (l : Bit) {s : State} (hm : s.mode = .read) (hp : s.rdPos ≤ 10) :
    Effect (.fall l) s (readBit l s) := by
  rcases readBit_cases l s hp with ⟨h0, rfl, hr⟩ | ⟨hlo, hhi, hr⟩ | ⟨h9, hc, hr⟩ | ⟨h10, rfl, hr⟩ | ⟨k, hk, hr⟩ <;> rw [hr]
  · exact .startBit hm h0
  · exact .dataBit l hm hlo hhi
  · exact .parityBit l hm h9 hc
  · rcases deliverByte_cases s.rdByte s with ⟨hreg, hen, hd⟩ | ⟨hnc, hd⟩ <;> rw [hd]
    · exact .toCallback hm h10 hreg hen
    · rcases enqueue_cases s.rdByte s with ⟨hw, hq⟩ | ⟨hw, hroom, hq⟩ | ⟨hw, hfull, hq⟩ <;> rw [hq]
      · exact .toWaitingRead hm h10 hnc hw
      · exact .toQueue hm h10 hnc hw hroom
      · exact .overflow hm h10 hnc hw hfull
  · unfold abortAndRecover
    split
    next hc => exact .resend l k hm hk hc
    next hc => exact .resendMissing l k hm hk (Bool.eq_false_of_not_eq_true hc)

/-! ### The response words (R84, R86) -/

theorem legalResponse_ok : LegalResponse (responseWord .ok 0x00) := ⟨by decide, by decide, by decide, by decide⟩

theorem legalResponse_data (b : Byte) : LegalResponse (responseWord .data b) := by
  simp [LegalResponse, statusCode]

theorem legalResponse_ackStatus (a : AckStatus) : LegalResponse (responseWord .ok ((ackCode a).zeroExtend 8)) := by
  cases a <;> exact ⟨by decide, by decide, by decide, by decide⟩

/-- Every STATUS that an operation answers without data, apart from OK (R86). -/
theorem legalResponse_noData {st : Status} (h : st ∈ [.pending, .notImplemented, .configError, .busy, .illegal]) :
    LegalResponse (responseWord st 0x00) := by
  simp only [List.mem_cons, List.not_mem_nil, or_false] at h
  rcases h with rfl | rfl | rfl | rfl | rfl <;> exact ⟨by decide, by decide, by decide, by decide⟩

/-! ### Operations and steps -/

/-- An operation that answers a next state has one of the effects and then a legal response (R86). -/
theorem exec_next_effect {i : Instr} {s t : State} (h : exec i s = .next t) :
    ∃ u r, Effect i s u ∧ LegalResponse r ∧ t = { u with resp := r } := by
  cases i with
  | fall l =>
    rcases exec_fall_next h with ⟨hm, hp, rfl⟩ | ⟨hm, hlo, hhi, rfl⟩ | ⟨-, -, rfl⟩
    · exact ⟨_, _, readBit_effect l hm hp, legalResponse_ok, rfl⟩
    · exact ⟨_, _, .writeBit l hm hlo hhi, legalResponse_ok, rfl⟩
    · exact ⟨_, _, .unchanged _ s, legalResponse_ok, rfl⟩
  | rise l =>
    rcases exec_rise_next h with ⟨hm, hp, rfl⟩ | ⟨-, rfl⟩
    · exact ⟨_, _, .ackCheck l hm hp, legalResponse_ok, rfl⟩
    · exact ⟨_, _, .unchanged _ s, legalResponse_ok, rfl⟩
  | write d =>
    rcases exec_write_next h with ⟨hc, rfl⟩ | ⟨-, rfl⟩
    · exact ⟨_, _, .send d hc, legalResponse_ok, rfl⟩
    · exact ⟨_, _, .unchanged _ s, legalResponse_noData (by decide), rfl⟩
  | inhdone =>
    rcases exec_inhdone_next h with ⟨hi, rfl⟩ | ⟨-, rfl⟩
    · exact ⟨_, _, .commit hi, legalResponse_ok, rfl⟩
    · exact ⟨_, _, .unchanged _ s, legalResponse_ok, rfl⟩
  | read =>
    rcases exec_read_next h with ⟨-, rfl⟩ | ⟨hw, b, rest, hq, rfl⟩ | ⟨hw, hq, rfl⟩
    · exact ⟨_, _, .unchanged _ s, legalResponse_noData (by decide), rfl⟩
    · exact ⟨_, _, .takeByte hw hq, legalResponse_data b, rfl⟩
    · exact ⟨_, _, .wait hw hq, legalResponse_noData (by decide), rfl⟩
  | rtmo =>
    rcases exec_rtmo_next h with ⟨hw, rfl⟩ | ⟨-, rfl⟩
    · exact ⟨_, _, .timeout hw, legalResponse_ok, rfl⟩
    · exact ⟨_, _, .unchanged _ s, legalResponse_ok, rfl⟩
  | regcb d =>
    rcases exec_regcb_next h with ⟨-, rfl⟩ | ⟨hd, rfl⟩
    · exact ⟨_, _, .unchanged _ s, legalResponse_noData (by decide), rfl⟩
    · exact ⟨_, _, .register d hd, legalResponse_ok, rfl⟩
  | unregcb => exact ⟨_, _, .unregister s, legalResponse_ok, exec_unregcb_next h⟩
  | enable =>
    rcases exec_enable_next h with ⟨-, rfl⟩ | ⟨he, rfl⟩
    · exact ⟨_, _, .unchanged _ s, legalResponse_ok, rfl⟩
    · exact ⟨_, _, .reenable he, legalResponse_ok, rfl⟩
  | disable => exact ⟨_, _, .disable s, legalResponse_ok, exec_disable_next h⟩
  | ackst => exact ⟨_, _, .unchanged _ s, legalResponse_ackStatus s.ackStatus, exec_ackst_next h⟩

/-- What every effect keeps, every step keeps, if taking a word from the input and a legal response keep it too. -/
theorem step_keeps {P : State → Prop} (hinput : ∀ s rest, P s → P { s with input := rest })
    (heffect : ∀ i s u, Effect i s u → P s → P u) (hresp : ∀ s r, LegalResponse r → P s → P { s with resp := r })
    {s t : State} (h : P s) (hstep : step s = .next t) : P t := by
  rcases step_next hstep with ⟨-, rfl⟩ | ⟨w, rest, i, -, -, he⟩ | ⟨w, rest, -, -, rfl⟩
  · exact h
  · obtain ⟨u, r, hu, hr, rfl⟩ := exec_next_effect he
    exact hresp u r hr (heffect i _ u hu (hinput s rest h))
  · exact hresp _ _ (legalResponse_noData (st := .illegal) (by decide)) (hinput s rest h)

/-! ### The invariants I1 to I10 (R41) -/

/-- Storing a bit above which a byte is empty leaves it empty above that bit (R122, I7). -/
theorem storeBit_ushiftRight_eq_zero {b : Byte} {i : Nat} (l : Bit) (hi : i < 8) (h : b >>> i = 0x00) :
    storeBit b i l >>> (i + 1) = 0x00 := by
  apply BitVec.eq_of_getLsbD_eq
  intro j _
  have hj : b.getLsbD (i + (j + 1)) = false := by simp [← BitVec.getLsbD_ushiftRight, h]
  rw [BitVec.getLsbD_ushiftRight, storeBit_getLsbD _ _ _ _ hi, if_neg (by omega),
    show i + 1 + j = i + (j + 1) by omega, hj]
  exact BitVec.getLsbD_zero.symm

theorem stateInv_resetReadState {s : State} (h : StateInv s) : StateInv (resetReadState s) :=
  { h with
    positions := ⟨by simp, h.positions.2⟩
    writeMode := fun hm => have ⟨_, _, hrest⟩ := h.writeMode hm; ⟨rfl, rfl, hrest⟩
    unreceived := by simp [UnreceivedBitsZero] }

theorem stateInv_sendPhase1 {s : State} (b : Byte) (h : StateInv s) : StateInv (sendPhase1 b s) :=
  { h with
    clockLow := by simp [ClockLowIffInhibit]
    noFrame := by simp
    bit11 := ⟨h.bit11.1, by simp⟩ }

/-- The commit sets up the write's first bit: Write mode at position 1, its frame on the line, ReadState empty (R153). -/
theorem stateInv_commitWrite {s : State} (h : StateInv s) : StateInv (commitWrite s) :=
  { h with
    positions := by simp [PositionsInRange]
    readMode := by simp
    writeMode := by simp
    clockLow := by simp [ClockLowIffInhibit]
    noFrame := by simp
    unreceived := by simp [UnreceivedBitsZero]
    bit11 := ⟨h.bit11.2, by simp⟩
    dataLine := by simp }

/-- The bits received so far lie below the new position (R122). -/
theorem stateInv_readDataBit {s : State} (l : Bit) (h : StateInv s) (hm : s.mode = .read) (hlo : 1 ≤ s.rdPos)
    (hhi : s.rdPos ≤ 8) : StateInv (readDataBit l s) := by
  have hnext : (s.rdPos + 1).toNat - 1 = s.rdPos.toNat - 1 + 1 := by bv_omega
  have hbyte := storeBit_ushiftRight_eq_zero l (by bv_omega) (h.unreceived.1 ⟨hlo, hhi⟩)
  exact { h with
    positions := ⟨by simp only [readDataBit_rdPos]; bv_omega, h.positions.2⟩
    writeMode := by simp [hm]
    unreceived := ⟨fun _ => by simpa only [readDataBit_rdByte, readDataBit_rdPos, hnext] using hbyte,
      fun h0 => by simp only [readDataBit_rdPos] at h0; bv_omega⟩ }

/-- The bit that WriteBit drives is the one before the new position (R155). -/
theorem stateInv_writeBit {s : State} (h : StateInv s) (hm : s.mode = .write) (hlo : 1 ≤ s.wrPos) (hhi : s.wrPos ≤ 10) :
    StateInv (writeBit s) := by
  have hnext : (s.wrPos + 1).toNat - 1 = s.wrPos.toNat := by bv_omega
  have hle : s.wrPos + 1 ≤ 11 := by bv_omega
  obtain ⟨hpos, hbyte, -, -, hack⟩ := h.writeMode hm
  exact { h with
    positions := ⟨h.positions.1, hle⟩
    readMode := by simp [hm]
    writeMode := fun _ => ⟨hpos, hbyte, by simp only [writeBit_wrPos]; bv_omega, hle, hack⟩
    dataLine := fun _ => by simp only [writeBit_datDrive, writeBit_wrFrame, writeBit_wrPos, hnext] }

/-- Back in Read mode the write machine is empty (R157). -/
theorem stateInv_ackCheck {s : State} (l : Bit) (h : StateInv s) : StateInv (ackCheck l s) :=
  { h with
    positions := ⟨h.positions.1, by simp⟩
    readMode := by simp
    writeMode := by simp
    bit11 := ⟨by simp, h.bit11.2⟩
    dataLine := by simp }

theorem effect_keeps_stateInv (i : Instr) (s u : State) (he : Effect i s u) (h : StateInv s) : StateInv u := by
  cases he with
  | unchanged => exact h
  | startBit hm hp =>
    have hbyte := h.unreceived.2 hp
    exact { h with
      positions := ⟨by simp, h.positions.2⟩
      writeMode := by simp [hm]
      unreceived := by simp [UnreceivedBitsZero, hbyte] }
  | dataBit l hm hlo hhi => exact stateInv_readDataBit l h hm hlo hhi
  | parityBit l hm hp hc =>
    exact { h with
      positions := ⟨by simp, h.positions.2⟩
      writeMode := by simp [hm]
      unreceived := by simp [UnreceivedBitsZero] }
  | toCallback => exact stateInv_resetReadState { h with }
  | toWaitingRead => exact stateInv_resetReadState { h with waiting := by simp }
  | toQueue hm hp hnc hw => exact stateInv_resetReadState { h with waiting := by simp [hw] }
  | overflow => exact stateInv_resetReadState { h with }
  | resend l k => exact { stateInv_resetReadState (stateInv_sendPhase1 resendByte h) with }
  | resendMissing l k => exact { stateInv_resetReadState h with }
  | writeBit l hm hlo hhi => exact stateInv_writeBit h hm hlo hhi
  | ackCheck l => exact stateInv_ackCheck l h
  | send d => exact stateInv_sendPhase1 d h
  | commit => exact stateInv_commitWrite h
  | takeByte hw => exact { h with waiting := by simp [hw] }
  | wait hw hq => exact { h with waiting := fun _ => hq }
  | timeout => exact { h with waiting := by simp }
  | register d hd => exact { h with handle := by simpa [HandleZeroIffNoCallback] using hd }
  | unregister => exact { h with handle := by simp [HandleZeroIffNoCallback] }
  | reenable => exact { h with waiting := fun _ => rfl }
  | disable => exact { h with }

/-- Settles O54: each effect keeps I1 to I10, and they read neither `input` nor `resp`. -/
theorem stepKeepsTheInvariants : Obligations.StepKeepsTheInvariants := fun _ _ h hstep =>
  step_keeps (fun _ _ hs => { hs with }) effect_keeps_stateInv (fun _ _ _ hs => { hs with }) h hstep

/-- Settles O53: I1 to I10 are closed facts about the reset values (R270). -/
theorem resetMeetsTheInvariants : Obligations.ResetMeetsTheInvariants := fun cfg ops =>
  { positions := by simp [PositionsInRange, State.resetWith]
    readMode := by simp [State.resetWith]
    writeMode := by simp [State.resetWith]
    clockLow := by simp [ClockLowIffInhibit, State.resetWith]
    noFrame := by simp [State.resetWith]
    waiting := by simp [State.resetWith]
    unreceived := by simp [UnreceivedBitsZero, State.resetWith]
    handle := by simp [HandleZeroIffNoCallback, State.resetWith]
    bit11 := by simp [State.resetWith]
    dataLine := by simp [State.resetWith] }

/-! ### Runs from reset -/

/-- The one stop needs `rd_pos` above 10 (R120; log 5). -/
theorem exec_completes (i : Instr) {s : State} (hp : s.rdPos ≤ 10) : ∃ t, exec i s = .next t := by
  cases i with
  | fall l =>
    cases hm : s.mode with
    | read => exact ⟨_, by simp only [exec, execFall, hm, if_pos hp]; rfl⟩
    | write => exact ⟨_, by simp only [exec, execFall, hm]; rfl⟩
  | write d => simp only [exec, execWrite]; split <;> exact ⟨_, rfl⟩
  | read =>
    simp only [exec, execRead]
    split
    · exact ⟨_, rfl⟩
    · split <;> exact ⟨_, rfl⟩
  | regcb d => simp only [exec, execRegcb]; split <;> exact ⟨_, rfl⟩
  | rise | inhdone | rtmo | unregcb | enable | disable | ackst => exact ⟨_, rfl⟩

theorem step_completes {s : State} (hp : s.rdPos ≤ 10) : ∃ t, step s = .next t := by
  rcases step_cases s with ⟨-, hs⟩ | ⟨w, rest, -, hs⟩ <;> rw [hs]
  · exact ⟨s, rfl⟩
  · rcases applyWord_cases w { s with input := rest } with ⟨i, -, ha⟩ | ⟨-, ha⟩ <;> rw [ha]
    · exact exec_completes i hp
    · exact ⟨_, rfl⟩

theorem reachable_stateInv {s : State} (h : Reachable s) : StateInv s := by
  induction h with
  | reset cfg ops => exact resetMeetsTheInvariants cfg ops
  | step s t _ hs ih => exact stepKeepsTheInvariants s t ih hs

/-- Settles O55: the invariants hold at reset and are kept, and I1 excludes the one stop. -/
theorem runsFromResetMeetTheInvariants : Obligations.RunsFromResetMeetTheInvariants := fun _ h =>
  have hinv := reachable_stateInv h
  ⟨hinv, step_completes hinv.positions.1⟩

/-! ### The legal values (R20) -/

theorem withinCapacity_of_hasRoom {cap : QueueCap} {n : Nat} (h : hasRoom cap n = true) : WithinCapacity cap (n + 1) := by
  cases cap with
  | unbounded => trivial
  | bounded c hc => exact (hasRoom_iff _ _).1 h c hc rfl

theorem withinCapacity_mono {cap : QueueCap} {m n : Nat} (hmn : m ≤ n) (h : WithinCapacity cap n) : WithinCapacity cap m := by
  cases cap with
  | unbounded => trivial
  | bounded c hc => exact Nat.le_trans hmn h

theorem withinCapacity_zero (cap : QueueCap) : WithinCapacity cap 0 := by
  cases cap with
  | unbounded => trivial
  | bounded c hc => exact Nat.zero_le c

theorem legalValues_resetReadState {s : State} (h : LegalValues s) : LegalValues (resetReadState s) :=
  { h with positions := ⟨by simp, h.positions.2⟩ }

theorem legalValues_sendPhase1 {s : State} (b : Byte) (h : LegalValues s) : LegalValues (sendPhase1 b s) :=
  { h with inhFrame := .inr ⟨b, rfl⟩ }

theorem effect_keeps_legalValues (i : Instr) (s u : State) (he : Effect i s u) (h : LegalValues s) : LegalValues u := by
  cases he with
  | unchanged => exact h
  | startBit => exact { h with positions := ⟨by simp, h.positions.2⟩ }
  | dataBit l hm hlo hhi =>
    exact { h with positions := ⟨by simp only [readDataBit_rdPos]; bv_omega, h.positions.2⟩ }
  | parityBit => exact { h with positions := ⟨by simp, h.positions.2⟩ }
  | toCallback => exact legalValues_resetReadState { h with }
  | toWaitingRead => exact legalValues_resetReadState { h with }
  | toQueue hm hp hnc hw hroom =>
    exact legalValues_resetReadState { h with queue := by simpa using withinCapacity_of_hasRoom hroom }
  | overflow => exact legalValues_resetReadState { h with }
  | resend l k => exact { legalValues_resetReadState (legalValues_sendPhase1 resendByte h) with }
  | resendMissing l k => exact { legalValues_resetReadState h with }
  | writeBit l hm hlo hhi =>
    exact { h with positions := ⟨h.positions.1, by simp only [writeBit_wrPos]; bv_omega⟩ }
  | ackCheck l => exact { h with positions := ⟨h.positions.1, by simp⟩, wrFrame := .inl rfl }
  | send d => exact legalValues_sendPhase1 d h
  | commit => exact { h with positions := by simp [PositionsInRange], wrFrame := h.inhFrame, inhFrame := .inl rfl }
  | takeByte hw hq => exact { h with queue := withinCapacity_mono (by simp [hq]) h.queue }
  | wait => exact { h with }
  | timeout => exact { h with }
  | register d hd => exact { h with handle := fun h0 => absurd h0 hd }
  | unregister => exact { h with handle := fun _ => rfl }
  | reenable => exact { h with queue := withinCapacity_zero _ }
  | disable => exact { h with }

theorem resetWith_legalValues (cfg : Params) (ops : List Word) : LegalValues { State.resetWith cfg with input := ops } :=
  { positions := by simp [PositionsInRange, State.resetWith]
    wrFrame := .inl rfl
    inhFrame := .inl rfl
    handle := fun _ => rfl
    queue := withinCapacity_zero _
    resp := legalResponse_ok }

/-- Settles O56: each effect keeps the other rows of R20's column, and every response is a word of R86. -/
theorem stepKeepsLegalValues : Obligations.StepKeepsLegalValues :=
  ⟨fun _ _ h hstep =>
    step_keeps (fun _ _ hs => { hs with }) effect_keeps_legalValues (fun _ _ hr hs => { hs with resp := hr }) h hstep,
    resetWith_legalValues⟩

/-! ### The traces (R36 to R38) -/

/-- The three traces of `s` are where those of `t` begin. -/
structure TracesExtend (s t : State) : Prop where
  rdDone : s.rdDone <+: t.rdDone
  obs : s.obs <+: t.obs
  cbOut : s.cbOut <+: t.cbOut

theorem tracesExtend_refl (s : State) : TracesExtend s s := ⟨List.prefix_rfl, List.prefix_rfl, List.prefix_rfl⟩

theorem tracesExtend_trans {s t u : State} (h : TracesExtend s t) (h' : TracesExtend t u) : TracesExtend s u :=
  ⟨h.rdDone.trans h'.rdDone, h.obs.trans h'.obs, h.cbOut.trans h'.cbOut⟩

theorem effect_tracesExtend (i : Instr) (s u : State) (he : Effect i s u) : TracesExtend s u := by
  have h := tracesExtend_refl s
  cases he with
  | toCallback => exact { h with cbOut := List.prefix_append _ _ }
  | toWaitingRead => exact { h with rdDone := List.prefix_append _ _ }
  | overflow => exact { h with obs := List.prefix_append _ _ }
  | resend => exact { h with obs := List.prefix_append _ _ }
  | resendMissing => exact { h with obs := (List.prefix_append _ _).trans (List.prefix_append _ _) }
  | ackCheck => exact { h with obs := List.prefix_append _ _ }
  | timeout => exact { h with rdDone := List.prefix_append _ _ }
  | unchanged | startBit | dataBit | parityBit | toQueue | writeBit | send | commit | takeByte | wait | register | unregister
  | reenable | disable => exact { h with }

theorem step_tracesExtend {s t : State} (h : step s = .next t) : TracesExtend s t :=
  step_keeps (P := TracesExtend s) (fun _ _ hs => { hs with })
    (fun i v u he hs => tracesExtend_trans hs (effect_tracesExtend i v u he)) (fun _ _ _ hs => { hs with })
    (tracesExtend_refl s) h

/-- Settles O49: every write to a trace appends to it. -/
theorem tracesOnlyGrow : Obligations.TracesOnlyGrow := fun _ _ h =>
  have ⟨⟨cs, hcs⟩, ⟨es, hes⟩, ⟨ds, hds⟩⟩ := step_tracesExtend h
  ⟨⟨cs, hcs.symm⟩, ⟨es, hes.symm⟩, ⟨ds, hds.symm⟩⟩

/-! ### The ownership table (R40) -/

/-- Settles O51: the fields an effect writes are those of its operation's row. -/
theorem onlyOwnersWriteAField : Obligations.OnlyOwnersWriteAField := by
  intro i s t h
  obtain ⟨u, r, he, -, rfl⟩ := exec_next_effect h
  cases he with
  | startBit hm | dataBit l hm | parityBit l hm | toCallback hm | toWaitingRead hm | toQueue hm | overflow hm
  | resend l k hm | resendMissing l k hm | writeBit l hm => simp [hm]
  | unchanged | ackCheck | send | commit | takeByte | wait | timeout | register | unregister | reenable | disable => simp

end Sys2Proof.Machine
end

section
/-! SUPPORT. 20_memory.md: the equations of the operations that R60 speaks of, branch by branch, and from them which operations are
idempotent (R60) and which edges read the sampled level (R52). -/

namespace Sys2Proof.Machine

/-! ### The branches of the operations, as equations -/

/-- A Write-mode FALL drives the next bit at the positions 1 to 10 and does nothing at the others (R155, R156). -/
theorem exec_fall_write {s : State} (l : Bit) (hm : s.mode = .write) :
    exec (.fall l) s = .next (respond .ok 0x00 (if 1 ≤ s.wrPos ∧ s.wrPos ≤ 10 then writeBit s else s)) := by
  simp [exec, execFall, hm]

theorem exec_rise_ackCheck {s : State} (l : Bit) (hm : s.mode = .write) (hp : s.wrPos = 11) :
    exec (.rise l) s = .next (respond .ok 0x00 (ackCheck l s)) := by
  simp [exec, execRise, hm, hp]

/-- A RISE that is no ack check only responds (R181). -/
theorem exec_rise_skip {s : State} (l : Bit) (h : ¬(s.mode = .write ∧ s.wrPos = 11)) :
    exec (.rise l) s = .next (respond .ok 0x00 s) := by
  rw [exec, execRise, if_neg h]

theorem exec_write_send {s : State} (d : Byte) (hc : s.cfg.sendPathImplemented = true) :
    exec (.write d) s = .next (respond .ok 0x00 (sendPhase1 d s)) := by
  simp [exec, execWrite, hc]

theorem exec_write_stub {s : State} (d : Byte) (hc : s.cfg.sendPathImplemented = false) :
    exec (.write d) s = .next (respond .notImplemented 0x00 s) := by
  simp [exec, execWrite, hc]

/-- An INHDONE without a pending inhibit only responds (R154). -/
theorem exec_inhdone_idle {s : State} (hi : s.inh = false) : exec .inhdone s = .next (respond .ok 0x00 s) := by
  simp [exec, execInhdone, hi]

/-- An RTMO without a waiting READ only responds (R212). -/
theorem exec_rtmo_idle {s : State} (hw : s.rdWait = false) : exec .rtmo s = .next (respond .ok 0x00 s) := by
  simp [exec, execRtmo, hw]

theorem exec_regcb_register {d : Byte} (s : State) (hd : d ≠ 0x00) :
    exec (.regcb d) s = .next (respond .ok 0x00 { s with cbReg := true, cbHandle := d }) := by
  rw [exec, execRegcb, if_neg hd]

/-- An ENABLE of an enabled channel only responds (R203). -/
theorem exec_enable_enabled {s : State} (he : s.enabled = true) : exec .enable s = .next (respond .ok 0x00 s) := by
  simp [exec, execEnable, he]

/-! ### Idempotence (R60) -/

/-- Doing the operation twice in a row leaves the whole state, `resp` included, as doing it once (R60). -/
def Idempotent (i : Instr) : Prop := ∀ ⦃s t : State⦄, exec i s = .next t → exec i t = .next t

/-- The same handle is registered again, or 0x00 is refused again. -/
theorem idempotent_regcb (d : Byte) : Idempotent (.regcb d) := by
  intro s t h
  rcases exec_regcb_next h with ⟨rfl, rfl⟩ | ⟨hd, rfl⟩
  · rfl
  · exact exec_regcb_register _ hd

theorem idempotent_unregcb : Idempotent .unregcb := by
  intro s t h
  rw [exec_unregcb_next h]
  rfl

/-- The second ENABLE finds the channel enabled, so it flushes nothing. -/
theorem idempotent_enable : Idempotent .enable := by
  intro s t h
  rcases exec_enable_next h with ⟨he, rfl⟩ | ⟨-, rfl⟩
  · exact exec_enable_enabled he
  · exact exec_enable_enabled rfl

theorem idempotent_disable : Idempotent .disable := by
  intro s t h
  rw [exec_disable_next h]
  rfl

theorem idempotent_ackst : Idempotent .ackst := by
  intro s t h
  rw [exec_ackst_next h]
  rfl

/-- An ack check returns to Read mode, where the second RISE is skipped. -/
theorem idempotent_rise (l : Bit) : Idempotent (.rise l) := by
  intro s t h
  rcases exec_rise_next h with ⟨-, -, rfl⟩ | ⟨hn, rfl⟩
  · exact exec_rise_skip l (by simp)
  · exact exec_rise_skip l hn

/-- A commit ends the inhibit that the second INHDONE would need. -/
theorem idempotent_inhdone : Idempotent .inhdone := by
  intro s t h
  rcases exec_inhdone_next h with ⟨-, rfl⟩ | ⟨hi, rfl⟩
  · exact exec_inhdone_idle rfl
  · exact exec_inhdone_idle hi

/-- A timeout ends the wait that the second RTMO would need. -/
theorem idempotent_rtmo : Idempotent .rtmo := by
  intro s t h
  rcases exec_rtmo_next h with ⟨-, rfl⟩ | ⟨hw, rfl⟩
  · exact exec_rtmo_idle rfl
  · exact exec_rtmo_idle hw

/-- The second WRITE of a byte latches the frame that is already latched. -/
theorem idempotent_write (d : Byte) : Idempotent (.write d) := by
  intro s t h
  rcases exec_write_next h with ⟨hc, rfl⟩ | ⟨hc, rfl⟩
  · exact exec_write_send d hc
  · exact exec_write_stub d hc

/-- Settles O43: each of the five finds, the second time, what it would write. -/
theorem consumerSetupIsIdempotent : Obligations.ConsumerSetupIsIdempotent := by
  rintro i s t (⟨d, rfl⟩ | rfl | rfl | rfl | rfl) h
  · exact idempotent_regcb d h
  · exact idempotent_unregcb h
  · exact idempotent_enable h
  · exact idempotent_disable h
  · exact idempotent_ackst h

/-! ### What a repetition changes (R60, log 15) -/

/-- Different bytes have different frames: the byte is bits 1 to 8 of its frame (R102). -/
theorem encodeWriteFrame_injective : Function.Injective encodeWriteFrame := by
  intro a b h
  apply BitVec.eq_of_getLsbD_eq
  intro i hi
  have hbit := congrArg (·.getLsbD (i + 1)) h
  simpa [encodeWriteFrame_getLsbD, hi] using hbit

/-- The two ack results differ (R157). -/
theorem ackOfSample_not_ne (l : Bit) : ackOfSample (!l) ≠ ackOfSample l := by cases l <;> decide

/-- A FALL advances a frame position, so the next FALL is for another bit: at reset in Read mode, and right after a commit in Write
mode (R121, R122, R155). -/
theorem fall_fall_ne (m : Mode) :
    ∃ s t u, s.mode = m ∧ exec (.fall false) s = .next t ∧ exec (.fall false) t = .next u ∧ t ≠ u := by
  cases m with
  | read => exact ⟨State.reset, _, _, rfl, rfl, rfl, by decide⟩
  | write => exact ⟨commitWrite (sendPhase1 0xED State.reset), _, _, rfl, rfl, rfl, by decide⟩

/-- Every WRITE on a working send path starts the inhibit timer anew (R150, R259). -/
theorem after_write_inhibitSince (c : Timers) {s : State} (t : State) (d : Byte) (x : Nat)
    (hc : s.cfg.sendPathImplemented = true) : (c.after ⟨x, .write d⟩ s t).inhibitSince = some x := by
  simp [Timers.after, startsInhibit, hc]

/-- A WRITE of another byte leaves another pending frame (R150, R160). -/
theorem write_write_ne {a b : Byte} {s t u : State} (hc : s.cfg.sendPathImplemented = true) (hab : a ≠ b)
    (ht : exec (.write a) s = .next t) (hu : exec (.write b) t = .next u) : t ≠ u := by
  cases (exec_write_send a hc).symm.trans ht
  cases (exec_write_send b (by simpa using hc)).symm.trans hu
  intro heq
  have hframe := congrArg State.inhFrame heq
  exact hab (encodeWriteFrame_injective (by simpa using hframe))

/-- At the ack check the first sample is the one recorded: the RISE after it is skipped, whatever its level (R157, R181). -/
theorem rise_rise_not_ne {s : State} (l : Bit) (hm : s.mode = .write) (hp : s.wrPos = 11) :
    ∃ t u v, exec (.rise l) s = .next t ∧ exec (.rise (!l)) t = .next u ∧ exec (.rise (!l)) s = .next v ∧ u ≠ v := by
  refine ⟨_, _, _, exec_rise_ackCheck l hm hp, exec_rise_skip (!l) (by simp), exec_rise_ackCheck (!l) hm hp, ?_⟩
  intro heq
  have hack := congrArg State.ackStatus heq
  exact ackOfSample_not_ne l (by simpa using hack.symm)

/-- Settles O60, clause by clause. -/
theorem repeatedEdgesTimersAndWrites : Obligations.RepeatedEdgesTimersAndWrites := by
  refine ⟨fall_fall_ne, ?_, ?_, fun _ _ _ _ _ => write_write_ne, fun _ => rise_rise_not_ne⟩
  · intro c s t u d x y hc ht _
    cases (exec_write_send d hc).symm.trans ht
    exact ⟨after_write_inhibitSince c _ d x hc, after_write_inhibitSince _ u d y (by simpa using hc)⟩
  · rintro i s t (⟨l, rfl⟩ | rfl | rfl | ⟨d, rfl⟩) h
    · exact idempotent_rise l h
    · exact idempotent_inhdone h
    · exact idempotent_rtmo h
    · exact idempotent_write d h

/-! ### Where the sampled level is read (R52, R76) -/

/-- Settles O35: what these edges do does not mention the level. -/
theorem levelIsReadOnlyWhereTheRulesSay : Obligations.LevelIsReadOnlyWhereTheRulesSay := by
  intro s l l'
  constructor
  · intro hm
    rw [exec_fall_write l hm, exec_fall_write l' hm]
  · intro hnotAck
    have hskip : ¬(s.mode = .write ∧ s.wrPos = 11) := by
      rintro ⟨hm, hp⟩
      rcases hnotAck with hr | hn
      · simp [hm] at hr
      · exact hn hp
    rw [exec_rise_skip l hskip, exec_rise_skip l' hskip]

end Sys2Proof.Machine
end

section
/-! SUPPORT. 30_encoding.md: decoder and encoder as inverses (`decode_eq_ok_iff`), legality in R78's own words, what a step does with its
next word, and `Answers`, which says once what every operation responds. -/

namespace Sys2Proof

/-! ### Decode and encode (R75, R79, R81) -/

/-- The operation with these fields: OP n stands in row n of the opcode map (R79). It reads no more of the fields than R79 does, so
it inverts `Instr.fields` but accepts illegal fields too. -/
def Instr.ofFields (f : WordFields) : Option Instr := opcodeMap[f.op.toNat - 1]?.map (·.operation f.level f.operand)

theorem Instr.ofFields_fields (i : Instr) : Instr.ofFields i.fields = some i := by cases i <;> rfl

theorem Instr.fields_injective : Function.Injective Instr.fields := fun i j h =>
  Option.some_injective _ (by rw [← ofFields_fields i, h, ofFields_fields j])

theorem Instr.wellFormed_fields : ∀ i : Instr, i.fields.wellFormed = true
  | .fall l => Laws.WellFormed.fall l
  | .rise l => Laws.WellFormed.rise l
  | .write d => Laws.WellFormed.write d
  | .inhdone => Laws.WellFormed.inhdone
  | .read => Laws.WellFormed.read
  | .rtmo => Laws.WellFormed.rtmo
  | .regcb d => Laws.WellFormed.regcb d
  | .unregcb => Laws.WellFormed.unregcb
  | .enable => Laws.WellFormed.enable
  | .disable => Laws.WellFormed.disable
  | .ackst => Laws.WellFormed.ackst

theorem encode_eq_iff (i : Instr) (w : Word) : encode i = w ↔ i.fields = fieldsOf w := by
  rw [← wordOf_inj, wordOf_fieldsOf, encode]

/-- Decoding inverts encoding: a word decodes to the one instruction whose word it is. -/
theorem decode_eq_ok_iff (w : Word) (i : Instr) : decode w = .ok i ↔ encode i = w := by
  rw [encode_eq_iff]
  rcases decode_cases w with ⟨j, hd, hj, -⟩ | ⟨e, hd, hf⟩
  · rw [hd, Except.ok.injEq, ← hj]
    exact ⟨fun h => by rw [h], fun h => (Instr.fields_injective h).symm⟩
  · have hne : i.fields ≠ fieldsOf w := fun h => by simp [← h, Instr.wellFormed_fields] at hf
    simp [hd, hne]

@[simp] theorem decode_encode (i : Instr) : decode (encode i) = .ok i := (decode_eq_ok_iff _ i).2 rfl

/-- Settles O2: the instruction is the one whose word it is. -/
theorem decodeOfEncodeIsTheInstruction : Obligations.DecodeOfEncodeIsTheInstruction := decode_encode

/-- Settles O3: the other direction of `decode_eq_ok_iff`. -/
theorem encodeOfDecodeIsTheWord : Obligations.EncodeOfDecodeIsTheWord := fun w i => (decode_eq_ok_iff w i).1

/-! ### The rows of the opcode map (R79) -/

/-- No row's mask leaves out a bit of OP. -/
theorem opField_mask : ∀ r ∈ opcodeMap, opField r.mask = 0xF#4 := by decide

theorem opcodeMap_ops_nodup : (opcodeMap.map (fun r => opField r.value)).Nodup := by decide

theorem opField_and (v w : Word) : opField (v &&& w) = opField v &&& opField w := BitVec.extractLsb'_and

/-- A row matches only words with the row's own OP. -/
theorem opField_eq_of_selects {r : OpcodeRow} {w : Word} (hr : r ∈ opcodeMap) (h : r.selects w = true) :
    opField r.value = opField w := by
  have hmatch : w &&& r.mask = r.value := by simpa [OpcodeRow.selects] using h
  rw [← hmatch, opField_and, opField_mask r hr]
  exact BitVec.and_allOnes

/-- Settles O4: the rows that match a word all have its OP, and no two rows have the same OP. -/
theorem atMostOneOpcodeRowMatches : Obligations.AtMostOneOpcodeRowMatches := by
  intro w
  have hnodup := opcodeMap_ops_nodup.sublist ((List.filter_sublist (p := fun r => r.selects w)).map _)
  have hsame : ∀ op ∈ (opcodeMap.filter (fun r => r.selects w)).map (fun r => opField r.value), op = opField w := by
    simp only [List.mem_map, List.mem_filter]
    rintro _ ⟨r, ⟨hr, hsel⟩, rfl⟩
    exact opField_eq_of_selects hr hsel
  rw [List.eq_replicate_of_mem hsame, List.nodup_replicate, List.length_map] at hnodup
  exact hnodup

/-! ### Legal words (R78, R80) -/

theorem decode_ok_iff_wellFormed (w : Word) : (∃ i, decode w = .ok i) ↔ (fieldsOf w).wellFormed = true := by
  rcases decode_cases w with ⟨i, hd, -, hf⟩ | ⟨e, hd, hf⟩ <;> simp [hd, hf]

theorem decode_ne_ok {w : Word} (hf : (fieldsOf w).wellFormed = false) (i : Instr) : decode w ≠ .ok i := fun hd => by
  simp [(decode_ok_iff_wellFormed w).1 ⟨i, hd⟩] at hf

theorem WordFields.opAssigned_iff (f : WordFields) :
    f.opAssigned = true ↔ f.op ∉ [0x0#4, 0xC#4, 0xD#4, 0xE#4, 0xF#4] := by
  unfold WordFields.opAssigned
  generalize f.op = op
  revert op
  decide

theorem WordFields.reservedClear_iff (f : WordFields) : f.reservedClear = true ↔ f.rsv = 0#3 := by
  simp [WordFields.reservedClear]

theorem WordFields.levelAllowed_iff (f : WordFields) :
    f.levelAllowed = true ↔ (f.op ∉ [0x1#4, 0x2#4] → f.level = false) := by
  simp [WordFields.levelAllowed, or_iff_not_imp_left]

theorem WordFields.operandAllowed_iff (f : WordFields) :
    f.operandAllowed = true ↔ (f.op ∉ [0x3#4, 0x7#4] → f.operand = 0x00#8) := by
  simp [WordFields.operandAllowed, or_iff_not_imp_left]

/-- Settles O5: the words that decode are the well-formed ones, condition by condition. -/
theorem decodeAcceptsExactlyTheLegalWords : Obligations.DecodeAcceptsExactlyTheLegalWords := by
  intro w
  rw [decode_ok_iff_wellFormed]
  simp only [WordFields.wellFormed, Bool.and_eq_true, WordFields.opAssigned_iff, WordFields.reservedClear_iff,
    WordFields.levelAllowed_iff, WordFields.operandAllowed_iff, and_assoc]
  rfl

/-- Settles O1: the words are those of R79's encodings, and the illegal ones are not well-formed. -/
theorem decodeReadsWordsOfTheSpec : Obligations.DecodeReadsWordsOfTheSpec := by
  refine ⟨rfl, rfl, rfl, rfl, rfl, rfl, rfl, rfl, rfl, rfl, rfl, rfl, ?_⟩
  simp only [List.forall_mem_cons]
  exact ⟨decode_ne_ok rfl, decode_ne_ok rfl, decode_ne_ok rfl, decode_ne_ok rfl, decode_ne_ok rfl, decode_ne_ok rfl,
    decode_ne_ok rfl, decode_ne_ok rfl, decode_ne_ok rfl, List.forall_mem_nil _⟩

end Sys2Proof

namespace Sys2Proof.Machine

/-! ### A step and its word (R16, R75, R81) -/

theorem applyWord_eq_exec {w : Word} {i : Instr} (s : State) (hd : decode w = .ok i) : applyWord w s = exec i s := by
  simp [applyWord, hd]

theorem step_eq_applyWord {s : State} {w : Word} {rest : List Word} (hi : s.input = w :: rest) :
    step s = applyWord w { s with input := rest } := by
  simp [step, fetch, hi]

/-- Settles O7: the step applies the next word. -/
theorem stepRunsTheDecodedOperation : Obligations.StepRunsTheDecodedOperation := fun _ _ _ _ hi hd =>
  (step_eq_applyWord hi).trans (applyWord_eq_exec _ hd)

/-- Supplying a word as a number of 16 bits supplies that word (log 11). -/
theorem withFetchWord_toNat (s : State) (w : Word) : s.withFetchWord 16 w.toNat = supplyWord w s := by
  rw [State.withFetchWord, Nat.mod_eq_of_lt w.isLt, BitVec.ofNat_toNat, BitVec.setWidth_eq]

/-- Settles O8: the word supplied is the next one, and it decodes to its instruction. -/
theorem suppliedWordRunsNext : Obligations.SuppliedWordRunsNext := fun s i => by
  rw [withFetchWord_toNat, step_eq_applyWord (w := encode i) rfl]
  exact applyWord_eq_exec s (decode_encode i)

/-! ### Every operation completes (R120, R240) -/

theorem exec_fall_read {s : State} (l : Bit) (hm : s.mode = .read) (hp : s.rdPos ≤ 10) :
    exec (.fall l) s = .next (respond .ok 0x00 (readBit l s)) := by
  simp only [exec, execFall, hm, if_pos hp]

theorem exec_read_busy {s : State} (hw : s.rdWait = true) : exec .read s = .next (respond .busy 0x00 s) := by
  simp [exec, execRead, hw]

theorem exec_read_takesByte {s : State} {b : Byte} {rest : List Byte} (hw : s.rdWait = false) (hq : s.queue = b :: rest) :
    exec .read s = .next (respond .data b { s with queue := rest }) := by
  simp [exec, execRead, dequeue, hw, hq]

theorem exec_read_waits {s : State} (hw : s.rdWait = false) (hq : s.queue = []) :
    exec .read s = .next (respond .pending 0x00 { s with rdWait := true }) := by
  simp [exec, execRead, dequeue, hw, hq]

theorem exec_regcb_zero (s : State) : exec (.regcb 0x00) s = .next (respond .configError 0x00 s) := rfl

/-- Settles O10: every branch of every operation has a next state, but for the one that the hypothesis excludes. -/
theorem everyOperationCompletes : Obligations.EveryOperationCompletes := by
  intro i s hpos
  cases i with
  | fall l =>
    cases hm : s.mode with
    | read => exact ⟨_, exec_fall_read l hm (hpos l rfl hm)⟩
    | write => exact ⟨_, exec_fall_write l hm⟩
  | write d =>
    cases hc : s.cfg.sendPathImplemented with
    | true => exact ⟨_, exec_write_send d hc⟩
    | false => exact ⟨_, exec_write_stub d hc⟩
  | read =>
    cases hw : s.rdWait with
    | true => exact ⟨_, exec_read_busy hw⟩
    | false =>
      cases hq : s.queue with
      | nil => exact ⟨_, exec_read_waits hw hq⟩
      | cons b rest => exact ⟨_, exec_read_takesByte hw hq⟩
  | regcb d =>
    rcases eq_or_ne d 0x00 with rfl | hd
    · exact ⟨_, exec_regcb_zero s⟩
    · exact ⟨_, exec_regcb_register s hd⟩
  | rise | inhdone | rtmo | unregcb | enable | disable | ackst => exact ⟨_, rfl⟩

/-! ### Responses (R84 to R86) -/

/-- `Answers i s st d`: operation `i` in state `s` may respond STATUS `st` with DATA `d`, one constructor for each response of R86. It
bounds the responses; `ok` does not say when OK is the answer. -/
inductive Answers : Instr → State → Status → Byte → Prop where
  | ok (i : Instr) (s : State) : Answers i s .ok 0x00
  | ackStatus (s : State) : Answers .ackst s .ok ((ackCode s.ackStatus).zeroExtend 8)
  | data {s : State} {b : Byte} (hq : s.queue.head? = some b) : Answers .read s .data b
  | pending {s : State} (hq : s.queue = []) : Answers .read s .pending 0x00
  | notImplemented {s : State} (d : Byte) (hc : s.cfg.sendPathImplemented = false) : Answers (.write d) s .notImplemented 0x00
  | configError (s : State) : Answers (.regcb 0x00) s .configError 0x00
  | busy {s : State} (hw : s.rdWait = true) : Answers .read s .busy 0x00

theorem exec_next_answers {i : Instr} {s t : State} (h : exec i s = .next t) :
    ∃ st d, Answers i s st d ∧ t.resp = responseWord st d := by
  cases i with
  | fall l => rcases exec_fall_next h with ⟨-, -, rfl⟩ | ⟨-, -, -, rfl⟩ | ⟨-, -, rfl⟩ <;> exact ⟨_, _, .ok _ s, rfl⟩
  | rise l => rcases exec_rise_next h with ⟨-, -, rfl⟩ | ⟨-, rfl⟩ <;> exact ⟨_, _, .ok _ s, rfl⟩
  | write d =>
    rcases exec_write_next h with ⟨-, rfl⟩ | ⟨hc, rfl⟩
    · exact ⟨_, _, .ok _ s, rfl⟩
    · exact ⟨_, _, .notImplemented d hc, rfl⟩
  | inhdone => rcases exec_inhdone_next h with ⟨-, rfl⟩ | ⟨-, rfl⟩ <;> exact ⟨_, _, .ok _ s, rfl⟩
  | read =>
    rcases exec_read_next h with ⟨hw, rfl⟩ | ⟨-, b, rest, hq, rfl⟩ | ⟨-, hq, rfl⟩
    · exact ⟨_, _, .busy hw, rfl⟩
    · exact ⟨_, _, .data (by rw [hq, List.head?_cons]), rfl⟩
    · exact ⟨_, _, .pending hq, rfl⟩
  | rtmo => rcases exec_rtmo_next h with ⟨-, rfl⟩ | ⟨-, rfl⟩ <;> exact ⟨_, _, .ok _ s, rfl⟩
  | regcb d =>
    rcases exec_regcb_next h with ⟨rfl, rfl⟩ | ⟨-, rfl⟩
    · exact ⟨_, _, .configError s, rfl⟩
    · exact ⟨_, _, .ok _ s, rfl⟩
  | unregcb => rw [exec_unregcb_next h]; exact ⟨_, _, .ok _ s, rfl⟩
  | enable => rcases exec_enable_next h with ⟨-, rfl⟩ | ⟨-, rfl⟩ <;> exact ⟨_, _, .ok _ s, rfl⟩
  | disable => rw [exec_disable_next h]; exact ⟨_, _, .ok _ s, rfl⟩
  | ackst => rw [exec_ackst_next h]; exact ⟨_, _, .ackStatus s, rfl⟩

/-- Settles O46: no other answer is an edge's or a timer's. -/
theorem edgeAndTimerOperationsRespondOk : Obligations.EdgeAndTimerOperationsRespondOk := by
  intro i s t hi h
  obtain ⟨st, d, ha, hresp⟩ := exec_next_answers h
  rw [hresp]
  rcases hi with rfl | rfl | ⟨l, rfl | rfl⟩ <;> cases ha <;> rfl

/-- Settles O47: an ILLEGAL word's answer is 0x7000, an operation's is one of `Answers`. -/
theorem responseWordFormat : Obligations.ResponseWordFormat := by
  intro w s t h
  rcases applyWord_cases w s with ⟨i, hd, hw⟩ | ⟨hill, hw⟩ <;> rw [hw] at h
  · obtain ⟨st, d, ha, hresp⟩ := exec_next_answers h
    simp only [hresp, responseWord_status, responseWord_zero, responseWord_data, hd]
    cases ha with
    | ok => simp [statusCode]
    | ackStatus => simp [statusCode]
    | data hq => simp [statusCode, hq]
    | pending hq => simp [statusCode, hq]
    | notImplemented d hc => simp [statusCode, hc]
    | configError => simp [statusCode]
    | busy hb => simp [statusCode, hb]
  · cases h
    simp [respondIllegal, statusCode, hill]

/-! ### Pseudo-operations, records and fields (R83, R87 to R90) -/

/-- The bits 0 to 10 of a byte's frame, by their places: start, data, parity, stop (R102). -/
theorem rxFrame_eq_frame_bits (b : Byte) :
    rxFrame b = (List.range 11).map (fun i => Instr.fall ((encodeWriteFrame b).getLsbD i)) := by
  simp [rxFrame, List.range_succ, encodeWriteFrame_getLsbD]

/-- Settles O14: both expansions, written out. -/
theorem pseudoOperationsExpand : Obligations.PseudoOperationsExpand :=
  ⟨rxFrame_eq_frame_bits, rfl, fun b => by simp [assemble, expandLine, rxFrame_eq_frame_bits]⟩

/-- Settles O48: every code is read off its table; a DATA record is STATUS 1 above its byte. -/
theorem recordAndFieldEncodings : Obligations.RecordAndFieldEncodings :=
  ⟨fun _ => rfl, rfl, rfl, rfl, rfl, rfl, rfl, rfl, rfl, fun _ _ => rfl, rfl, rfl, rfl, rfl, rfl, rfl, rfl, rfl⟩

end Sys2Proof.Machine
end

section
/-! SUPPORT. 40_frame_codec.md: the parity as an exclusive or, the frame's value, and the read machine's eleven samples: what each
sample does, what a good frame delivers, and that fewer than eleven samples from the start position deliver nothing. -/

namespace Sys2Proof.Machine

/-! ### Parity (R100, R101) -/

/-- A count is odd exactly when the exclusive or of what is counted is 1. -/
theorem countP_odd_eq_foldr_xor {α : Type} (f : α → Bool) (l : List α) :
    (l.countP f % 2 == 1) = l.foldr (fun a acc => f a ^^ acc) false := by
  induction l with
  | nil => rfl
  | cons a l ih =>
    rw [List.foldr_cons, ← ih, List.countP_cons]
    cases f a with
    | false => simp
    | true => rcases Nat.mod_two_eq_zero_or_one (l.countP f) with h | h <;> simp [Nat.add_mod, h]

theorem foldr_xor_xor {α : Type} (f g : α → Bool) (l : List α) :
    l.foldr (fun a acc => (f a ^^ g a) ^^ acc) false =
      (l.foldr (fun a acc => f a ^^ acc) false ^^ l.foldr (fun a acc => g a ^^ acc) false) := by
  induction l with
  | nil => rfl
  | cons a l ih =>
    rw [List.foldr_cons, List.foldr_cons, List.foldr_cons, ih]
    simp only [Bool.xor_assoc, Bool.xor_left_comm]

theorem parityOf_eq_foldr_xor (b : Byte) :
    parityOf b = !(List.range 8).foldr (fun i acc => b.getLsbD i ^^ acc) false := by
  rw [parityOf, popcount, countP_odd_eq_foldr_xor]

theorem parityOf_eq_xor (b : Byte) :
    parityOf b = (true ^^ b.getLsbD 0 ^^ b.getLsbD 1 ^^ b.getLsbD 2 ^^ b.getLsbD 3 ^^ b.getLsbD 4 ^^ b.getLsbD 5 ^^
      b.getLsbD 6 ^^ b.getLsbD 7) := by
  rw [parityOf_eq_foldr_xor]
  simp [List.range_succ]

theorem eq_parityOf_iff_odd (b : Byte) (p : Bit) : p = parityOf b ↔ (popcount b + p.toNat) % 2 = 1 := by
  rcases Nat.mod_two_eq_zero_or_one (popcount b) with h | h <;> cases p <;> simp [parityOf, Nat.add_mod, h]

/-- Settles O11: the exclusive or is the parity of the count, and bit 9 is the frame's parity bit. -/
theorem parityBitMakesTheCountOdd : Obligations.ParityBitMakesTheCountOdd :=
  ⟨fun b => ⟨(eq_parityOf_iff_odd b _).1 rfl, parityOf_eq_xor b, encodeWriteFrame_getLsbD b 9⟩, by decide⟩

/-- The exclusive or of two bytes has an even count exactly when their counts are both even or both odd. -/
theorem parityOf_xor (b c : Byte) : parityOf (b ^^^ c) = !(parityOf b ^^ parityOf c) := by
  simp only [parityOf_eq_foldr_xor, BitVec.getLsbD_xor, foldr_xor_xor, Bool.xor_not, Bool.not_xor, Bool.not_not]

/-- A byte with one bit set has an odd count. -/
theorem parityOf_one_shiftLeft {i : Nat} (hi : i < 8) : parityOf (1#8 <<< i) = false := by
  revert i
  decide

theorem parityOf_flip (b : Byte) {i : Nat} (hi : i < 8) : parityOf (b ^^^ (1#8 <<< i)) = !parityOf b := by
  simp [parityOf_xor, parityOf_one_shiftLeft hi]

theorem checkParity_not (b : Byte) (p : Bit) : checkParity b (!p) = !checkParity b p := by
  cases p <;> simp [checkParity]

theorem checkParity_flip (b : Byte) (p : Bit) {i : Nat} (hi : i < 8) :
    checkParity (b ^^^ (1#8 <<< i)) p = !checkParity b p := by
  cases p <;> simp [checkParity, parityOf_flip b hi]

/-- Settles O12: every flip, of a data bit or of the parity bit, negates the check. -/
theorem parityCheckCatchesOneFlippedBit : Obligations.ParityCheckCatchesOneFlippedBit := fun b p =>
  ⟨checkParity_iff b p, (checkParity_iff b p).trans (eq_parityOf_iff_odd b p), checkParity_not b p,
    fun _ hi => ⟨checkParity_flip b p hi, by rw [checkParity_flip b _ hi, checkParity_not, Bool.not_not]⟩,
    fun _ _ hi hj _ => by rw [checkParity_flip _ p hj, checkParity_flip b p hi, Bool.not_not]⟩

/-! ### The write frame (R102) -/

theorem encodeWriteFrame_eq_or (b : Byte) :
    encodeWriteFrame b = 0x400#12 ||| ((BitVec.ofBool (parityOf b)).zeroExtend 12 <<< 9) ||| (b.zeroExtend 12 <<< 1) := by
  apply BitVec.eq_of_getLsbD_eq
  intro i hi
  rw [encodeWriteFrame_getLsbD]
  interval_cases i <;> simp

theorem encodeWriteFrame_toNat (b : Byte) :
    (encodeWriteFrame b).toNat = 1024 + 512 * (parityOf b).toNat + 2 * b.toNat := by
  have hb := b.isLt
  have hp := (parityOf b).toNat_lt
  rw [encodeWriteFrame, BitVec.toNat_append, BitVec.toNat_append, BitVec.toNat_append, BitVec.toNat_append,
    BitVec.toNat_ofBool, ← Nat.shiftLeft_add_eq_or_of_lt (BitVec.isLt _), ← Nat.shiftLeft_add_eq_or_of_lt hb,
    ← Nat.shiftLeft_add_eq_or_of_lt (i := 1) hp]
  simp only [BitVec.toNat_ofNat, Nat.shiftLeft_eq, Nat.zero_mod, Nat.zero_mul, Nat.zero_or, Nat.mod_succ]
  omega

theorem encodeWriteFrame_ge (b : Byte) : 0x402#12 ≤ encodeWriteFrame b := by
  rw [BitVec.le_def, encodeWriteFrame_toNat]
  rcases eq_or_ne b 0x00#8 with rfl | hb
  · decide
  · have hpos : b.toNat ≠ 0 := fun h => hb (BitVec.eq_of_toNat_eq h)
    have hlit : (0x402#12).toNat = 1026 := rfl
    omega

theorem encodeWriteFrame_le (b : Byte) : encodeWriteFrame b ≤ 0x7FE#12 := by
  have hb := b.isLt
  have hp := (parityOf b).toNat_le
  have hlit : (0x7FE#12).toNat = 2046 := rfl
  rw [BitVec.le_def, encodeWriteFrame_toNat]
  omega

theorem encodeWriteFrame_data (b : Byte) : (encodeWriteFrame b).extractLsb' 1 8 = b := by
  apply BitVec.eq_of_getLsbD_eq
  intro i hi
  simp [encodeWriteFrame_getLsbD, hi, show 1 + i ≤ 8 by omega]

/-- Settles O13: the bits by their positions, the range by the value. -/
theorem writeFrameLayout : Obligations.WriteFrameLayout := fun b =>
  ⟨encodeWriteFrame_getLsbD b 0, fun i hi => by simp [encodeWriteFrame_getLsbD, hi], encodeWriteFrame_getLsbD b 9,
    encodeWriteFrame_getLsbD b 10, encodeWriteFrame_getLsbD b 11, encodeWriteFrame_eq_or b, encodeWriteFrame_ge b,
    encodeWriteFrame_le b, encodeWriteFrame_data b, by decide⟩

/-! ### The read machine's samples, as equations (R121 to R124) -/

/-- `s` in the middle of a frame, with accumulator `b` and expecting position `p`, after a sample (R121 to R123, R85). -/
def readingAt (b : Byte) (p : BitVec 4) (s : State) : State := respond .ok 0x00 { s with rdByte := b, rdPos := p }

@[simp] theorem readingAt_rdByte (b : Byte) (p : BitVec 4) (s : State) : (readingAt b p s).rdByte = b := rfl
@[simp] theorem readingAt_rdPos (b : Byte) (p : BitVec 4) (s : State) : (readingAt b p s).rdPos = p := rfl

theorem exec_fall_start {s : State} (hm : s.mode = .read) (hp : s.rdPos = 0) :
    exec (.fall false) s = .next (readingAt s.rdByte 1 s) := by
  rw [exec_fall_read _ hm (by simp [hp]), readBit, if_pos hp]
  rfl

theorem exec_fall_data {s : State} (l : Bit) (hm : s.mode = .read) (hlo : 1 ≤ s.rdPos) (hhi : s.rdPos ≤ 8) :
    exec (.fall l) s = .next (readingAt (storeBit s.rdByte (s.rdPos.toNat - 1) l) (s.rdPos + 1) s) := by
  rw [exec_fall_read _ hm (by bv_omega), readBit, if_neg (by bv_omega), if_pos hhi]
  rfl

theorem exec_fall_parity {s : State} {p : Bit} (hm : s.mode = .read) (hp : s.rdPos = 9) (hc : checkParity s.rdByte p = true) :
    exec (.fall p) s = .next (readingAt s.rdByte 10 s) := by
  simp [exec_fall_read _ hm, readBit, readParityBit, readingAt, hp, hc]

theorem exec_fall_stop {s : State} (hm : s.mode = .read) (hp : s.rdPos = 10) :
    exec (.fall true) s = .next (respond .ok 0x00 (resetReadState (deliverByte s.rdByte s))) := by
  simp [exec_fall_read _ hm, readBit, readStopBit, hp]

theorem exec_fall_framingError {s : State} {k : FramingError} {l : Bit} (hm : s.mode = .read) (h : FramingErrorAt k l s) :
    exec (.fall l) s = .next (respond .ok 0x00 (abortAndRecover k s)) := by
  rcases h with ⟨hp, rfl, rfl⟩ | ⟨hp, hc, rfl⟩ | ⟨hp, rfl, rfl⟩
  · simp [exec_fall_read _ hm, readBit, readStartBit, hp]
  · simp [exec_fall_read _ hm, readBit, readParityBit, hp, hc]
  · simp [exec_fall_read _ hm, readBit, readStopBit, hp]

/-! ### Runs whose first part is known -/

theorem runOps_cons_next {i : Instr} {s t : State} (is : List Instr) (h : exec i s = .next t) :
    runOps (i :: is) s = runOps is t := by
  simp [runOps, h]

theorem runOps_append_next {a : List Instr} {s t : State} (b : List Instr) (h : runOps a s = .next t) :
    runOps (a ++ b) s = runOps b t := by
  simp [runOps_append, h]

/-! ### A good frame delivers its byte (R104) -/

/-- The read machine's accumulator after the data bits 0 to n-1 of `b`, from `old` (R122). -/
def receivedBits (b old : Byte) : Nat → Byte
  | 0 => old
  | n + 1 => storeBit (receivedBits b old n) n (b.getLsbD n)

theorem receivedBits_getLsbD (b old : Byte) {n : Nat} (hn : n ≤ 8) (j : Nat) :
    (receivedBits b old n).getLsbD j = if j < n then b.getLsbD j else old.getLsbD j := by
  induction n with
  | zero => rfl
  | succ n ih =>
    rw [receivedBits, storeBit_getLsbD _ _ _ _ hn, ih (by omega)]
    rcases eq_or_ne j n with rfl | hne
    · simp
    · simp [hne, show j < n + 1 ↔ j < n by omega]

/-- After eight bits nothing of the old accumulator is left. -/
theorem receivedBits_eight (b old : Byte) : receivedBits b old 8 = b := by
  apply BitVec.eq_of_getLsbD_eq
  intro j hj
  rw [receivedBits_getLsbD b old (Nat.le_refl 8), if_pos hj]

/-- A good start bit and the first n data bits of `b` (R121, R122). -/
theorem runOps_start_dataBits {s : State} (b : Byte) (hm : s.mode = .read) (hp : s.rdPos = 0) {n : Nat} (hn : n ≤ 8) :
    runOps (.fall false :: (List.range n).map (fun i => Instr.fall (b.getLsbD i))) s =
      .next (readingAt (receivedBits b s.rdByte n) (BitVec.ofNat 4 (n + 1)) s) := by
  induction n with
  | zero => exact runOps_cons_next _ (exec_fall_start hm hp)
  | succ n ih =>
    have hpos : (BitVec.ofNat 4 (n + 1)).toNat = n + 1 := by rw [BitVec.toNat_ofNat]; omega
    have hnext : BitVec.ofNat 4 (n + 1) + 1 = BitVec.ofNat 4 (n + 1 + 1) := BitVec.ofNat_add_ofNat ..
    rw [List.range_succ, List.map_append, ← List.cons_append, runOps_append_next _ (ih (by omega)), List.map_singleton]
    have hdata := exec_fall_data (s := readingAt (receivedBits b s.rdByte n) (BitVec.ofNat 4 (n + 1)) s) (b.getLsbD n) hm
      (by rw [readingAt_rdPos]; bv_omega) (by rw [readingAt_rdPos]; bv_omega)
    rw [runOps_cons_next _ hdata, readingAt_rdPos, hpos, hnext]
    rfl

/-- The samples of a frame: start, the data bits of `b`, parity and stop (R70, R104). -/
def frameSamples (start : Bit) (b : Byte) (p stop : Bit) : List Instr :=
  .fall start :: (List.range 8).map (fun i => Instr.fall (b.getLsbD i)) ++ [.fall p, .fall stop]

/-- After the start and data bits the machine holds the byte and expects its parity bit. -/
theorem runOps_frameSamples {s : State} (b : Byte) (p stop : Bit) (hm : s.mode = .read) (hp : s.rdPos = 0) :
    runOps (frameSamples false b p stop) s = runOps [.fall p, .fall stop] (readingAt b 9 s) := by
  have hrun := runOps_start_dataBits b hm hp (Nat.le_refl 8)
  rw [receivedBits_eight] at hrun
  exact runOps_append_next _ hrun

/-- Deliver reads and writes neither ReadState nor the response (R125). -/
theorem deliverByte_setReadState (b x : Byte) (p : BitVec 4) (r : Word) (s : State) :
    deliverByte b { s with rdByte := x, rdPos := p, resp := r } =
      { deliverByte b s with rdByte := x, rdPos := p, resp := r } := by
  simp only [deliverByte, enqueue, deliverToCallback, complete, emit]
  split
  · rfl
  · split
    · rfl
    · split <;> rfl

/-- After a good frame's delivery ReadState is as at the start, and the accumulator empty (R124). -/
theorem resetReadState_deliverByte_readingAt {s : State} (b : Byte) (hp : s.rdPos = 0) :
    respond .ok 0x00 (resetReadState (deliverByte b (readingAt b 10 s))) =
      respond .ok 0x00 (deliverByte b { s with rdByte := 0x00 }) := by
  have hleft : deliverByte b (readingAt b 10 s) =
      { deliverByte b s with rdByte := b, rdPos := 10, resp := responseWord .ok 0x00 } :=
    deliverByte_setReadState b b 10 (responseWord .ok 0x00) s
  have hright := deliverByte_setReadState b 0x00 s.rdPos s.resp s
  rw [hleft, hright, hp]
  rfl

theorem runOps_goodFrame {s : State} {b : Byte} {p : Bit} (hm : s.mode = .read) (hp : s.rdPos = 0)
    (hc : checkParity b p = true) :
    runOps (frameSamples false b p true) s = .next (respond .ok 0x00 (deliverByte b { s with rdByte := 0x00 })) := by
  have hparity : exec (.fall p) (readingAt b 9 s) = .next (readingAt b 10 s) := exec_fall_parity hm rfl hc
  have hstop := exec_fall_stop (s := readingAt b 10 s) hm rfl
  rw [runOps_frameSamples b p true hm hp, runOps_cons_next _ hparity, runOps_cons_next _ hstop, runOps, readingAt_rdByte,
    resetReadState_deliverByte_readingAt b hp]

theorem runOps_rxFrame {s : State} (b : Byte) (hm : s.mode = .read) (hp : s.rdPos = 0) :
    runOps (rxFrame b) s = .next (respond .ok 0x00 (deliverByte b { s with rdByte := 0x00 })) :=
  runOps_goodFrame hm hp ((checkParity_iff b _).2 rfl)

/-! ### Samples that deliver nothing (R104) -/

@[simp] theorem abortAndRecover_rdPos (k : FramingError) (s : State) : (abortAndRecover k s).rdPos = 0 := rfl

/-- From `s` to `t`, in Read mode, no byte is delivered, completed or queued, and none is reported as dropped. -/
structure NothingReceived (s t : State) : Prop where
  mode : t.mode = .read
  queue : t.queue = s.queue
  cbOut : t.cbOut = s.cbOut
  rdDone : t.rdDone = s.rdDone
  rdWait : t.rdWait = s.rdWait
  overflows : t.obs.count .queueOverflow = s.obs.count .queueOverflow

theorem nothingReceived_trans {s t u : State} (h : NothingReceived s t) (h' : NothingReceived t u) : NothingReceived s u :=
  { mode := h'.mode
    queue := h'.queue.trans h.queue
    cbOut := h'.cbOut.trans h.cbOut
    rdDone := h'.rdDone.trans h.rdDone
    rdWait := h'.rdWait.trans h.rdWait
    overflows := h'.overflows.trans h.overflows }

theorem nothingReceived_refl {s : State} (hm : s.mode = .read) : NothingReceived s s := ⟨hm, rfl, rfl, rfl, rfl, rfl⟩

/-- A framing error delivers nothing, and an overflow is not what it reports (R135). -/
theorem nothingReceived_abortAndRecover {s : State} (k : FramingError) (hm : s.mode = .read) :
    NothingReceived s (respond .ok 0x00 (abortAndRecover k s)) := by
  have hk : framingEvent k ≠ .queueOverflow := by cases k <;> decide
  obtain ⟨f, c, i, ob, h, hob⟩ := abortAndRecover_fields k s
  have hcount : ob.count .queueOverflow = 0 := by
    rcases hob with ⟨-, -, -, -, rfl⟩ | ⟨-, -, -, -, rfl⟩ <;> simp [hk]
  rw [h]
  exact ⟨hm, rfl, rfl, rfl, rfl, by simp [hcount]⟩

/-- A sample before the stop position delivers nothing and advances by at most one. -/
theorem exec_fall_nothingReceived {s : State} (l : Bit) (hm : s.mode = .read) (hp : s.rdPos.toNat < 10) :
    ∃ t, exec (.fall l) s = .next t ∧ NothingReceived s t ∧ t.rdPos.toNat ≤ s.rdPos.toNat + 1 := by
  have hle : s.rdPos ≤ 10 := by bv_omega
  refine ⟨_, exec_fall_read l hm hle, ?_⟩
  rcases readBit_cases l s hle with ⟨h0, -, hr⟩ | ⟨hlo, hhi, hr⟩ | ⟨h9, -, hr⟩ | ⟨h10, -, -⟩ | ⟨k, -, hr⟩
  · rw [hr]; exact ⟨⟨hm, rfl, rfl, rfl, rfl, rfl⟩, by simp⟩
  · rw [hr]; exact ⟨⟨hm, rfl, rfl, rfl, rfl, rfl⟩, by simp; bv_omega⟩
  · rw [hr]; exact ⟨⟨hm, rfl, rfl, rfl, rfl, rfl⟩, by simp [h9]⟩
  · simp [h10] at hp
  · rw [hr]; exact ⟨nothingReceived_abortAndRecover k hm, by simp⟩

/-- Samples too few to reach the stop bit deliver nothing, however often they abort on the way. -/
theorem runOps_falls_nothingReceived {s : State} (ls : List Bit) (hm : s.mode = .read)
    (hlen : s.rdPos.toNat + ls.length ≤ 10) : ∃ t, runOps (ls.map .fall) s = .next t ∧ NothingReceived s t := by
  induction ls generalizing s with
  | nil => exact ⟨s, rfl, nothingReceived_refl hm⟩
  | cons l ls ih =>
    rw [List.length_cons] at hlen
    obtain ⟨t, ht, hst, hpos⟩ := exec_fall_nothingReceived l hm (by omega)
    obtain ⟨u, hu, htu⟩ := ih hst.mode (by omega)
    exact ⟨u, (runOps_cons_next _ ht).trans hu, nothingReceived_trans hst htu⟩

/-- After a framing error, which returns to the start position, ten samples more are too few (R132). -/
theorem runOps_framingError_nothingReceived {s : State} {k : FramingError} {l : Bit} (ls : List Bit) (hm : s.mode = .read)
    (hk : FramingErrorAt k l s) (hlen : ls.length ≤ 10) :
    ∃ t, runOps (.fall l :: ls.map .fall) s = .next t ∧ NothingReceived s t := by
  have habort := nothingReceived_abortAndRecover k hm
  obtain ⟨t, ht, hat⟩ := runOps_falls_nothingReceived ls habort.mode (by simpa using hlen)
  exact ⟨t, (runOps_cons_next _ (exec_fall_framingError hm hk)).trans ht, nothingReceived_trans habort hat⟩

/-- The three ways to be bad are an error at the first, the tenth and the eleventh sample. -/
theorem runOps_badFrame_nothingReceived {s : State} {start : Bit} {b : Byte} {p stop : Bit} (hm : s.mode = .read)
    (hp : s.rdPos = 0) (hbad : ¬(start = false ∧ checkParity b p = true ∧ stop = true)) :
    ∃ t, runOps (frameSamples start b p stop) s = .next t ∧ NothingReceived s t := by
  cases start with
  | true =>
    obtain ⟨t, ht, hst⟩ := runOps_framingError_nothingReceived (k := .start)
      ((List.range 8).map b.getLsbD ++ [p, stop]) hm (.inl ⟨hp, rfl, rfl⟩) (by simp)
    exact ⟨t, by simpa [frameSamples, Function.comp_def] using ht, hst⟩
  | false =>
    rw [runOps_frameSamples b p stop hm hp]
    have hdata (q : BitVec 4) : NothingReceived s (readingAt b q s) := ⟨hm, rfl, rfl, rfl, rfl, rfl⟩
    cases hc : checkParity b p with
    | false =>
      obtain ⟨t, ht, hst⟩ :=
        runOps_framingError_nothingReceived [stop] (hdata 9).mode (.inr (.inl ⟨rfl, hc, rfl⟩)) (by simp)
      exact ⟨t, ht, nothingReceived_trans (hdata 9) hst⟩
    | true =>
      obtain rfl : stop = false := by simpa [hc] using hbad
      have hparity : exec (.fall p) (readingAt b 9 s) = .next (readingAt b 10 s) := exec_fall_parity hm rfl hc
      obtain ⟨t, ht, hst⟩ :=
        runOps_framingError_nothingReceived [] (hdata 10).mode (.inr (.inr ⟨rfl, rfl, rfl⟩)) (by simp)
      exact ⟨t, (runOps_cons_next _ hparity).trans ht, nothingReceived_trans (hdata 10) hst⟩

/-- Settles O22: a good frame delivers, a bad one does not, and the bits of a byte's frame are its RXFRAME. -/
theorem elevenSamplesDeliverExactlyGoodFrames : Obligations.ElevenSamplesDeliverExactlyGoodFrames := by
  intro s start b p stop hm hp
  refine ⟨?_, ?_, ?_⟩
  · rintro ⟨rfl, hc, rfl⟩
    exact runOps_goodFrame hm hp hc
  · intro hbad
    obtain ⟨t, ht, hmode, hqueue, hcbOut, hrdDone, hrdWait, hoverflows⟩ := runOps_badFrame_nothingReceived hm hp hbad
    exact ⟨t, ht, hmode, hqueue, hcbOut, hrdDone, hrdWait, hoverflows⟩
  · rw [← rxFrame_eq_frame_bits]
    exact runOps_rxFrame b hm hp

/-! ### Frames one after another (R55, R56) -/

/-- With no callback in force, no READ waiting and room in the queue, a delivered byte is queued (R125, R55). -/
theorem deliverByte_queued {s : State} (b : Byte) (hcb : s.cbReg = false ∨ s.enabled = false) (hw : s.rdWait = false)
    (hroom : hasRoom s.cfg.queueCap s.queue.length = true) : deliverByte b s = { s with queue := s.queue ++ [b] } := by
  rcases deliverByte_cases b s with ⟨hreg, hen, -⟩ | ⟨-, hd⟩
  · simp [hreg, hen] at hcb
  · simp [hd, enqueue, hw, hroom]

/-- From a state at rest a frame's one effect is its byte at the queue's tail, so the next frame finds a state at rest. -/
theorem runOps_rxFrame_queued {s : State} (b : Byte) (hm : s.mode = .read) (hp : s.rdPos = 0) (hbyte : s.rdByte = 0x00)
    (hresp : s.resp = 0x0000) (hcb : s.cbReg = false ∨ s.enabled = false) (hw : s.rdWait = false)
    (hroom : hasRoom s.cfg.queueCap s.queue.length = true) :
    runOps (rxFrame b) s = .next { s with queue := s.queue ++ [b] } := by
  have hempty : { s with rdByte := 0x00 } = s := by rw [← hbyte]
  have hok : responseWord .ok 0x00 = s.resp := hresp.symm
  rw [runOps_rxFrame b hm hp, hempty, deliverByte_queued b hcb hw hroom, respond, hok]

/-- Settles O23, by induction on the bytes: the room for all of them is room for the first, and then for the rest. -/
theorem framesAreQueuedInOrder : Obligations.FramesAreQueuedInOrder := by
  intro bs
  induction bs with
  | nil => intro s _ _ _ _ _ _ _; simp [runOps]
  | cons b bs ih =>
    intro s hm hp hbyte hresp hcb hw hcap
    have hlen (c : Nat) (h : 1 ≤ c) (hc : s.cfg.queueCap = .bounded c h) : s.queue.length + 1 + bs.length ≤ c := by
      rw [Nat.add_assoc, Nat.add_comm 1]
      exact hcap c h hc
    have hroom : hasRoom s.cfg.queueCap s.queue.length = true :=
      (hasRoom_iff _ _).2 fun c h hc => by have := hlen c h hc; omega
    have hframe := runOps_rxFrame_queued b hm hp hbyte hresp hcb hw hroom
    have hrest := ih { s with queue := s.queue ++ [b] } hm hp hbyte hresp hcb hw fun c h hc => by
      simpa using hlen c h hc
    rw [List.flatMap_cons, runOps_append_next _ hframe, hrest, List.append_assoc, List.singleton_append]

end Sys2Proof.Machine
end

section
/-! SUPPORT. 41_read_sm.md: what a Read-mode FALL does at each position. The start, data, parity and stop equations stand above; here are
the branches of Deliver as equations, a framing error by the event that reports it, and the positions past the stop bit. -/

namespace Sys2Proof.Machine

/-! ### Where a delivered byte goes (R125, R200) -/

theorem deliverByte_callback {s : State} (b : Byte) (hreg : s.cbReg = true) (hen : s.enabled = true) :
    deliverByte b s = { s with cbOut := s.cbOut ++ [⟨s.cbHandle, b⟩] } := by
  simp [deliverByte, deliverToCallback, hreg, hen]

/-- With no callback in force a byte is enqueued (R125). -/
theorem deliverByte_enqueue {s : State} (b : Byte) (hcb : s.cbReg = false ∨ s.enabled = false) :
    deliverByte b s = enqueue b s := by
  rcases hcb with h | h <;> simp [deliverByte, h]

/-- A waiting READ takes the byte, and the queue is not looked at (R55). -/
theorem enqueue_waiting {s : State} (b : Byte) (hw : s.rdWait = true) :
    enqueue b s = { s with rdDone := s.rdDone ++ [.data b], rdWait := false } := by
  simp [enqueue, complete, hw]

/-- At a full queue the byte is dropped and reported (R57). -/
theorem enqueue_full {s : State} (b : Byte) (hw : s.rdWait = false)
    (hfull : hasRoom s.cfg.queueCap s.queue.length = false) :
    enqueue b s = { s with obs := s.obs ++ [.queueOverflow] } := by
  simp [enqueue, emit, hw, hfull]

theorem hasRoom_eq_false {cap : QueueCap} {n : Nat} (h : ∃ c hc, cap = .bounded c hc ∧ c ≤ n) : hasRoom cap n = false := by
  obtain ⟨c, hc, rfl, hle⟩ := h
  simpa [hasRoom] using hle

/-! ### The obligations, by position (R121 to R125) -/

/-- Settles O15: a start bit of 1 is a framing error. -/
theorem fallAtStartBit : Obligations.FallAtStartBit := fun _ hm hp =>
  ⟨exec_fall_start hm hp, exec_fall_framingError hm (.inl ⟨hp, rfl, rfl⟩)⟩

/-- Settles O16: the byte is the bit store's. -/
theorem fallAtDataBit : Obligations.FallAtDataBit := by
  intro s l hm hlo hhi
  have hi : s.rdPos.toNat - 1 < 8 := by bv_omega
  refine ⟨storeBit s.rdByte (s.rdPos.toNat - 1) l, exec_fall_data l hm hlo hhi, ?_, fun j hj => ?_⟩
  · rw [storeBit_getLsbD _ _ _ _ hi, if_pos rfl]
  · rw [storeBit_getLsbD _ _ _ _ hi, if_neg hj]

/-- Settles O17: a parity sample that does not check is a framing error. -/
theorem fallAtParityBit : Obligations.FallAtParityBit := by
  intro s l hm hp
  refine ⟨fun hl => exec_fall_parity hm hp ((checkParity_iff _ _).2 hl), fun hl => ?_⟩
  have hc : checkParity s.rdByte l = false := by rwa [← Bool.not_eq_true, checkParity_iff]
  exact exec_fall_framingError hm (.inr (.inl ⟨hp, hc, rfl⟩))

/-- Settles O18: a stop bit of 0 is a framing error. -/
theorem fallAtStopBit : Obligations.FallAtStopBit := fun _ hm hp =>
  ⟨exec_fall_stop hm hp, exec_fall_framingError hm (.inr (.inr ⟨hp, rfl, rfl⟩))⟩

/-- Settles O19: a good stop bit delivers, and each clause is one of the places a byte goes. -/
theorem completedByteIsDelivered : Obligations.CompletedByteIsDelivered := by
  intro s hm hp
  rw [exec_fall_stop hm hp]
  refine ⟨fun hreg hen => ?callback, fun hcb hw => ?waiting, fun hcb hw hroom => ?queued, fun hcb hw hfull => ?dropped⟩
  case callback => rw [deliverByte_callback _ hreg hen]; rfl
  case waiting => rw [deliverByte_enqueue _ hcb, enqueue_waiting _ hw]; rfl
  case queued => rw [deliverByte_queued _ hcb hw ((hasRoom_iff _ _).2 hroom)]; rfl
  case dropped => rw [deliverByte_enqueue _ hcb, enqueue_full _ hw (hasRoom_eq_false hfull)]; rfl

/-! ### Framing errors (R130 to R134) -/

/-- The three framing errors, each with the event that reports it (R133, R241). -/
theorem exists_framingErrorAt {s : State} {l : Bit} {e : Event}
    (h : s.rdPos = 0 ∧ l = true ∧ e = .framingStart ∨ s.rdPos = 9 ∧ checkParity s.rdByte l = false ∧ e = .framingParity ∨
      s.rdPos = 10 ∧ l = false ∧ e = .framingStop) :
    ∃ k, FramingErrorAt k l s ∧ framingEvent k = e := by
  rcases h with ⟨hp, hl, rfl⟩ | ⟨hp, hc, rfl⟩ | ⟨hp, hl, rfl⟩
  · exact ⟨.start, .inl ⟨hp, hl, rfl⟩, rfl⟩
  · exact ⟨.parity, .inr (.inl ⟨hp, hc, rfl⟩), rfl⟩
  · exact ⟨.stop, .inr (.inr ⟨hp, hl, rfl⟩), rfl⟩

/-- Settles O20: every framing error aborts and recovers, with a send path and without one. -/
theorem framingErrorAbortsAndRecovers : Obligations.FramingErrorAbortsAndRecovers := by
  intro s l e hm herr
  obtain ⟨k, hk, rfl⟩ := exists_framingErrorAt herr
  rw [exec_fall_framingError hm hk]
  refine ⟨fun hsend => ?send, fun hstub => ?stub⟩
  case send => rw [abortAndRecover_send k s hsend]; rfl
  case stub => rw [abortAndRecover_stub k s hstub]; rfl

/-! ### Past the stop bit (log 5) -/

/-- Settles O21: no rule names a position past the stop bit. -/
theorem fallBeyondStopBitStops : Obligations.FallBeyondStopBitStops := by
  intro s l hm hp
  have hnot : ¬ s.rdPos ≤ 10 := BitVec.not_le.2 hp
  simp only [exec, execFall, hm, if_neg hnot]

end Sys2Proof.Machine
end

section
/-! SUPPORT. 42_write_sm.md: the equations of the write machine's branches that do not stand above, and `onWire`, the state of a write
after each of its falling edges, from which the statements about whole writes follow. -/

namespace Sys2Proof.Machine

/-! ### WRITE, INHDONE and the Write-mode edges, one at a time (R152 to R157) -/

/-- An INHDONE during the inhibit commits the pending write (R153). -/
theorem exec_inhdone_commit {s : State} (hi : s.inh = true) : exec .inhdone s = .next (respond .ok 0x00 (commitWrite s)) := by
  simp [exec, execInhdone, hi]

/-- Settles O24: WRITE with and without a send path. -/
theorem writeBeginsInhibit : Obligations.WriteBeginsInhibit := fun _ d => ⟨exec_write_send d, exec_write_stub d⟩

/-- Settles O25: INHDONE with and without a pending write. -/
theorem inhdoneCommitsThePendingWrite : Obligations.InhdoneCommitsThePendingWrite := fun _ =>
  ⟨exec_inhdone_commit, exec_inhdone_idle⟩

/-- Settles O26: the two clauses are the two sides of WriteBit's guard. -/
theorem fallInWriteModeDrivesTheFrame : Obligations.FallInWriteModeDrivesTheFrame := by
  intro s l hm
  rw [exec_fall_write l hm]
  refine ⟨fun hlo hhi => ?drive, fun hout => ?skip⟩
  case drive => rw [if_pos ⟨hlo, hhi⟩]; rfl
  case skip => rw [if_neg (by bv_omega)]; rfl

/-- Settles O27: a RISE is the ack check or is skipped. -/
theorem riseChecksTheAck : Obligations.RiseChecksTheAck := by
  intro s
  refine ⟨fun hm hp => ⟨exec_rise_ackCheck false hm hp, exec_rise_ackCheck true hm hp⟩, fun hout l => exec_rise_skip l ?_⟩
  rintro ⟨hm, hp⟩
  rcases hout with hread | hpos
  · simp [hm] at hread
  · exact hpos hp

/-! ### A write on the wire (R153, R155, R161) -/

/-- `s` after WRITE b, INHDONE and n falling edges, n up to 10: the data line carries frame bit n (R161). -/
def onWire (b : Byte) (n : Nat) (s : State) : State :=
  respond .ok 0x00 { commitWrite (sendPhase1 b s) with
    datDrive := (encodeWriteFrame b).getLsbD n, wrPos := BitVec.ofNat 4 (n + 1) }

theorem onWire_wrPos_toNat (b : Byte) {n : Nat} (hn : n ≤ 10) (s : State) : (onWire b n s).wrPos.toNat = n + 1 :=
  (BitVec.toNat_ofNat ..).trans (Nat.mod_eq_of_lt (by omega))

/-- The commit of a write erases the write before it, pending or on the wire (R160). -/
theorem onWire_onWire (a b : Byte) (m n : Nat) (s : State) : onWire b n (onWire a m s) = onWire b n s := rfl

theorem runOps_write_inhdone {s : State} (b : Byte) (is : List Instr) (hc : s.cfg.sendPathImplemented = true) :
    runOps (.write b :: .inhdone :: is) s = runOps is (onWire b 0 s) := by
  rw [runOps_cons_next _ (exec_write_send b hc), runOps_cons_next _ (exec_inhdone_commit rfl)]
  rfl

theorem writeBit_onWire (b : Byte) {n : Nat} (hn : n ≤ 10) (s : State) :
    respond .ok 0x00 (writeBit (onWire b n s)) = onWire b (n + 1) s := by
  have hnext : BitVec.ofNat 4 (n + 1) + 1 = BitVec.ofNat 4 (n + 1 + 1) := BitVec.ofNat_add_ofNat ..
  calc respond .ok 0x00 (writeBit (onWire b n s))
      = respond .ok 0x00 { commitWrite (sendPhase1 b s) with
          datDrive := (encodeWriteFrame b).getLsbD (onWire b n s).wrPos.toNat, wrPos := BitVec.ofNat 4 (n + 1) + 1 } := rfl
    _ = onWire b (n + 1) s := by rw [onWire_wrPos_toNat b hn s, hnext, onWire]

/-- A falling edge drives the next bit, up to bit 10; further ones are ignored (R155, R156). -/
theorem exec_fall_onWire (b : Byte) {n : Nat} (hn : n ≤ 10) (l : Bit) (s : State) :
    exec (.fall l) (onWire b n s) = .next (onWire b (min (n + 1) 10) s) := by
  have hpos := onWire_wrPos_toNat b hn s
  rw [exec_fall_write l rfl]
  rcases Nat.lt_or_eq_of_le hn with hlt | rfl
  · rw [if_pos ⟨by bv_omega, by bv_omega⟩, writeBit_onWire b hn s, Nat.min_eq_left hlt]
  · rfl

/-- The falling edges of a write, whatever they sample (R155, R156). -/
theorem runOps_falls_onWire (b : Byte) (samples : List Bit) {n : Nat} (hn : n ≤ 10) (s : State) :
    runOps (samples.map Instr.fall) (onWire b n s) = .next (onWire b (min (n + samples.length) 10) s) := by
  induction samples generalizing n with
  | nil => rw [List.length_nil, Nat.add_zero, Nat.min_eq_left hn]; rfl
  | cons l ls ih =>
    rw [List.map_cons, runOps_cons_next _ (exec_fall_onWire b hn l s), ih (Nat.min_le_right ..), List.length_cons]
    congr 2
    omega

/-- A write and its falling edges end in `onWire` at the last bit driven (R161). -/
theorem runOps_write_falls {s : State} (b : Byte) (samples : List Bit) (hc : s.cfg.sendPathImplemented = true) :
    runOps (.write b :: .inhdone :: samples.map Instr.fall) s = .next (onWire b (min samples.length 10) s) := by
  rw [runOps_write_inhdone b _ hc, runOps_falls_onWire b samples (Nat.zero_le 10), Nat.zero_add]

/-- The rising edge after the tenth falling edge is the ack check (R157). -/
theorem exec_rise_onWire (b : Byte) (l : Bit) (s : State) :
    exec (.rise l) (onWire b 10 s) = .next (respond .ok 0x00 (ackCheck l (onWire b 10 s))) :=
  exec_rise_ackCheck l rfl rfl

/-! ### Whole writes (R150 to R161) -/

theorem ackOfSample_eq_ite (l : Bit) : ackOfSample l = if l then .nack else .ack := by cases l <;> rfl

theorem ackEvent_eq_ite (l : Bit) : ackEvent l = if l then .writeNack else .writeAck := by cases l <;> rfl

/-- Settles O28: the run ends in `onWire`. -/
theorem dataLineCarriesTheFrame : Obligations.DataLineCarriesTheFrame := by
  intro s b samples hc hlen
  have hrun := runOps_write_falls b samples hc
  rw [Nat.min_eq_left hlen] at hrun
  refine ⟨_, hrun, rfl, onWire_wrPos_toNat b hlen s, rfl, rfl, rfl, rfl, fun hten l => ?_⟩
  rw [hten]
  exact ⟨_, exec_rise_onWire b l s, ackOfSample_eq_ite l⟩

/-- Settles O29: the ack check after the tenth bit, the stop bit, which leaves the data line high. -/
theorem wholeWriteEndsAtRest : Obligations.WholeWriteEndsAtRest := by
  intro s b samples l hc hlen
  have hrun := runOps_write_falls b samples hc
  rw [hlen, Nat.min_self] at hrun
  have hstop : (onWire b 10 s).datDrive = true := encodeWriteFrame_stop b
  rw [runOps_append_next _ hrun, runOps_cons_next _ (exec_rise_onWire b l s), ← ackOfSample_eq_ite, ← ackEvent_eq_ite, ← hstop]
  rfl

/-- Settles O30: a WRITE replaces the pending frame, and `onWire` forgets the write before. -/
theorem latestWriteReachesTheWire : Obligations.LatestWriteReachesTheWire := by
  intro s a b samples hc
  refine ⟨?pending, ?onTheWire⟩
  case pending =>
    have hsecond := exec_write_send (s := respond .ok 0x00 (sendPhase1 a s)) b hc
    rw [runOps_cons_next _ (exec_write_send a hc), runOps_cons_next _ hsecond, runOps_cons_next _ (exec_write_send b hc)]
    rfl
  case onTheWire =>
    rw [runOps_append_next _ (runOps_write_falls a samples hc), runOps_write_inhdone (s := onWire a _ s) b _ hc, onWire_onWire,
      runOps_write_inhdone b _ hc]

/-! ### Without a send path (R151) -/

/-- No send path, no inhibit, Read mode. -/
def StubAtRest (s : State) : Prop := s.cfg.sendPathImplemented = false ∧ s.inh = false ∧ s.mode = .read

/-- The effects that begin an inhibit need a send path, the commit needs an inhibit, and the write machine's need Write mode. -/
theorem effect_keeps_stubAtRest (i : Instr) (s u : State) (he : Effect i s u) (h : StubAtRest s) : StubAtRest u := by
  obtain ⟨hstub, hinh, hmode⟩ := h
  cases he with
  | resend l k hm hk hc => simp [hstub] at hc
  | send d hc => simp [hstub] at hc
  | commit hi => simp [hinh] at hi
  | writeBit l hm => simp [hmode] at hm
  | ackCheck l hm => simp [hmode] at hm
  | unchanged | startBit | dataBit | parityBit | toCallback | toWaitingRead | toQueue | overflow | resendMissing | takeByte | wait
  | timeout | register | unregister | reenable | disable => exact ⟨hstub, hinh, hmode⟩

/-- Settles O31: every step keeps `StubAtRest`. -/
theorem stubSendPathStaysInReadMode : Obligations.StubSendPathStaysInReadMode := fun _ _ hstub hinh hmode hstep =>
  step_keeps (P := StubAtRest) (fun _ _ hs => hs) effect_keeps_stubAtRest (fun _ _ _ hs => hs) ⟨hstub, hinh, hmode⟩ hstep

end Sys2Proof.Machine
end

section
/-! SUPPORT. 43_mode_dispatch.md: where an effect changes the mode, what the edges of each mode leave alone, and the operations that do
not read the mode. -/

namespace Sys2Proof.Machine

/-! ### Mode transitions (R182) -/

/-- An effect keeps the mode, or is the commit or the ack check (R182). -/
theorem effect_mode {i : Instr} {s u : State} (he : Effect i s u) :
    u.mode = s.mode ∨ (i = .inhdone ∧ s.inh = true ∧ u.mode = .write) ∨
      (∃ l, i = .rise l ∧ s.mode = .write ∧ s.wrPos = 11 ∧ u.mode = .read) := by
  cases he with
  | commit hi => exact .inr (.inl ⟨rfl, hi, rfl⟩)
  | ackCheck l hm hp => exact .inr (.inr ⟨l, rfl, hm, hp, rfl⟩)
  | unchanged | startBit | dataBit | parityBit | toCallback | toWaitingRead | toQueue | overflow | resend | resendMissing
  | writeBit | send | takeByte | wait | timeout | register | unregister | reenable | disable => exact .inl rfl

/-- The mode changes at no other operation, and a commit in Write mode, the restart of a write, leaves it (R182). -/
theorem exec_mode_ne {i : Instr} {s t : State} (h : exec i s = .next t) (hne : t.mode ≠ s.mode) :
    (s.mode = .read ∧ t.mode = .write ∧ i = .inhdone ∧ s.inh = true) ∨
      (s.mode = .write ∧ t.mode = .read ∧ s.wrPos = 11 ∧ ∃ l, i = .rise l) := by
  obtain ⟨u, r, he, -, rfl⟩ := exec_next_effect h
  rcases effect_mode he with hsame | ⟨hi, hinh, hw⟩ | ⟨l, hi, hm, hp, hr⟩
  · exact absurd hsame hne
  · cases hm : s.mode with
    | read => exact .inl ⟨rfl, hw, hi, hinh⟩
    | write => exact absurd (hw.trans hm.symm) hne
  · exact .inr ⟨hm, hr, hp, l, hi⟩

/-- Settles O32: only two effects write the mode. -/
theorem modeChangesOnlyByCommitAndAck : Obligations.ModeChangesOnlyByCommitAndAck :=
  ⟨fun _ _ _ => exec_mode_ne, fun _ hi => ⟨_, exec_inhdone_commit hi, rfl, rfl⟩,
    fun _ l hm hp => ⟨_, exec_rise_ackCheck l hm hp, rfl⟩, fun _ => rfl⟩

/-! ### The edges of each mode (R184) -/

/-- A Read-mode RISE is no ack check (R181). -/
theorem exec_rise_read {s : State} (l : Bit) (hm : s.mode = .read) : exec (.rise l) s = .next (respond .ok 0x00 s) :=
  exec_rise_skip l (by simp [hm])

/-- In Write mode only the position decides whether a RISE is the ack check (R181). -/
theorem exec_rise_write {s : State} (l : Bit) (hm : s.mode = .write) :
    exec (.rise l) s = .next (respond .ok 0x00 (if s.wrPos = 11 then ackCheck l s else s)) := by
  split
  next hp => exact exec_rise_ackCheck l hm hp
  next hp => exact exec_rise_skip l fun hack => hp hack.2

/-- The read machine writes nothing of the write machine's (R184). -/
theorem exec_fall_read_frame {l : Bit} {s t : State} (hm : s.mode = .read) (h : exec (.fall l) s = .next t) :
    t.wrFrame = s.wrFrame ∧ t.wrPos = s.wrPos ∧ t.datDrive = s.datDrive ∧ t.ackStatus = s.ackStatus ∧ t.mode = .read := by
  obtain ⟨u, r, he, -, rfl⟩ := exec_next_effect h
  cases he with
  | writeBit l hw => simp [hm] at hw
  | unchanged | startBit | dataBit | parityBit | toCallback | toWaitingRead | toQueue | overflow | resend | resendMissing =>
    exact ⟨rfl, rfl, rfl, rfl, hm⟩

/-- The write continuation writes the data line, its position and the response (R184). -/
theorem exec_fall_write_frame {l : Bit} {s t : State} (hm : s.mode = .write) (h : exec (.fall l) s = .next t) :
    t = { s with datDrive := t.datDrive, wrPos := t.wrPos, resp := 0x0000 } := by
  rcases exec_fall_next h with ⟨hr, -⟩ | ⟨-, -, -, rfl⟩ | ⟨-, -, rfl⟩
  · simp [hm] at hr
  · rfl
  · rfl

/-- A RISE away from the ack-sampling point only responds, in either mode (R181). -/
theorem eq_of_exec_rise_skip {l : Bit} {s t : State} (hn : ¬(s.mode = .write ∧ s.wrPos = 11))
    (h : exec (.rise l) s = .next t) : t = { s with resp := 0x0000 } := by
  cases (exec_rise_skip l hn).symm.trans h
  rfl

/-- Settles O33: the routing by the equations of the edges, what is left alone by their frames. -/
theorem oneMachineOwnsTheEdges : Obligations.OneMachineOwnsTheEdges :=
  ⟨fun _ l hm hp => ⟨exec_fall_read l hm hp, exec_rise_read l hm⟩,
    fun _ l hm => ⟨exec_fall_write l hm, exec_rise_write l hm⟩,
    fun _ _ _ => ⟨exec_fall_read_frame, fun hm => eq_of_exec_rise_skip (by simp [hm]), exec_fall_write_frame,
      fun _ hp => eq_of_exec_rise_skip fun hack => hp hack.2⟩⟩

/-! ### The operations that do not read the mode (R185) -/

/-- The waiting READ times out (R212). -/
theorem exec_rtmo_timeout {s : State} (hw : s.rdWait = true) :
    exec .rtmo s = .next (respond .ok 0x00 (complete .timeout { s with rdWait := false })) := by
  simp [exec, execRtmo, hw]

/-- An ENABLE of a disabled channel flushes the queue (R203). -/
theorem exec_enable_reenable {s : State} (he : s.enabled = false) :
    exec .enable s = .next (respond .ok 0x00 { s with queue := [], enabled := true }) := by
  simp [exec, execEnable, flush, he]

/-- Apart from the edges and INHDONE, an operation neither reads nor writes the mode. -/
theorem exec_setMode {i : Instr} {s t : State} (m : Mode) (hfall : ∀ l, i ≠ .fall l) (hrise : ∀ l, i ≠ .rise l)
    (hinhdone : i ≠ .inhdone) (h : exec i s = .next t) : exec i { s with mode := m } = .next { t with mode := m } := by
  cases i with
  | fall l => exact absurd rfl (hfall l)
  | rise l => exact absurd rfl (hrise l)
  | inhdone => exact absurd rfl hinhdone
  | write d =>
    rcases exec_write_next h with ⟨hc, rfl⟩ | ⟨hc, rfl⟩
    · exact exec_write_send d hc
    · exact exec_write_stub d hc
  | read =>
    rcases exec_read_next h with ⟨hw, rfl⟩ | ⟨hw, b, rest, hq, rfl⟩ | ⟨hw, hq, rfl⟩
    · exact exec_read_busy hw
    · exact exec_read_takesByte hw hq
    · exact exec_read_waits hw hq
  | rtmo =>
    rcases exec_rtmo_next h with ⟨hw, rfl⟩ | ⟨hw, rfl⟩
    · exact exec_rtmo_timeout hw
    · exact exec_rtmo_idle hw
  | regcb d =>
    rcases exec_regcb_next h with ⟨rfl, rfl⟩ | ⟨hd, rfl⟩
    · exact exec_regcb_zero _
    · exact exec_regcb_register _ hd
  | enable =>
    rcases exec_enable_next h with ⟨he, rfl⟩ | ⟨he, rfl⟩
    · exact exec_enable_enabled he
    · exact exec_enable_reenable he
  | unregcb => rw [exec_unregcb_next h]; rfl
  | disable => rw [exec_disable_next h]; rfl
  | ackst => rw [exec_ackst_next h]; rfl

/-- INHDONE does not read the mode either: a commit sets Write, whatever the mode was (R153, R185). -/
theorem exec_inhdone_setMode {s t : State} (m : Mode) (h : exec .inhdone s = .next t) :
    exec .inhdone { s with mode := m } = .next { t with mode := if s.inh = true then .write else m } := by
  rcases exec_inhdone_next h with ⟨hi, rfl⟩ | ⟨hi, rfl⟩
  · rw [if_pos hi]
    exact exec_inhdone_commit hi
  · rw [if_neg (by simp [hi])]
    exact exec_inhdone_idle hi

/-- Settles O34: INHDONE apart, `exec_setMode` speaks of every other operation but the edges. -/
theorem onlyEdgesReadTheMode : Obligations.OnlyEdgesReadTheMode := by
  intro i s t m hfall hrise h
  by_cases hi : i = .inhdone
  · subst hi
    simpa using exec_inhdone_setMode m h
  · simpa [hi] using exec_setMode m hfall hrise hi h

end Sys2Proof.Machine
end

section
/-! SUPPORT. 44_consumer_api.md: the consumer operations and the read timer's expiry, branch by branch; the answer to an ILLEGAL word; and
the count of records and waiting READ, which only a READ that begins to wait raises (R214). The branches as equations stand above. -/

namespace Sys2Proof.Machine

/-! ### ILLEGAL words (R218) -/

/-- Settles O6: an ill-formed word does not decode, and `respondIllegal` is the answer to every such word. -/
theorem illegalWordOnlyResponds : Obligations.IllegalWordOnlyResponds := by
  intro s w rest hf hinput
  rw [step_eq_applyWord hinput]
  rcases applyWord_cases w { s with input := rest } with ⟨i, hd, -⟩ | ⟨-, happly⟩
  · exact absurd hd (decode_ne_ok hf i)
  · exact happly

/-! ### One record for each READ that waits (R214) -/

/-- The records of `rd_done` and the waiting READ, together (R214). -/
def readsBegun (s : State) : Nat := s.rdDone.length + s.rdWait.toNat

/-- Two effects end a wait, each with one record; apart from READ's no other effect touches `rd_done` or `rd_wait`. -/
theorem effect_keeps_readsBegun {i : Instr} {s u : State} (he : Effect i s u) (hi : i ≠ .read) :
    readsBegun u = readsBegun s := by
  cases he with
  | toWaitingRead hm hp hnc hw => simp [readsBegun, hw]
  | timeout hw => simp [readsBegun, hw]
  | takeByte => exact absurd rfl hi
  | wait => exact absurd rfl hi
  | unchanged | startBit | dataBit | parityBit | toCallback | toQueue | overflow | resend | resendMissing | writeBit | ackCheck | send
  | commit | register | unregister | reenable | disable => rfl

/-- PENDING is told by the STATUS of a response, whatever its DATA (R86). -/
theorem responseWord_ne_pending {st : Status} (h : statusCode st ≠ 2#4) (d : Byte) : responseWord st d ≠ 0x2000 := fun hr =>
  h ((responseWord_status st d).symm.trans (congrArg (fun r : Word => r.extractLsb' 12 4) hr))

/-- Of READ's three answers PENDING alone begins a wait (R210). -/
theorem exec_read_readsBegun {s t : State} (h : exec .read s = .next t) :
    readsBegun t = readsBegun s + if t.resp = 0x2000 then 1 else 0 := by
  rcases exec_read_next h with ⟨-, rfl⟩ | ⟨-, b, rest, -, rfl⟩ | ⟨hw, -, rfl⟩
  case inl =>
    rw [respond_resp, if_neg (responseWord_ne_pending (st := .busy) (by decide) 0x00)]
    rfl
  case inr.inl =>
    rw [respond_resp, if_neg (responseWord_ne_pending (st := .data) (by decide) b)]
    rfl
  case inr.inr =>
    rw [respond_resp, if_pos (show responseWord .pending 0x00 = 0x2000 from rfl)]
    simp [readsBegun, hw]

/-- Settles O44: a READ counts by its answer, and every other operation keeps the count. -/
theorem oneRecordPerPendingRead : Obligations.OneRecordPerPendingRead := by
  intro i s t h
  by_cases hi : i = .read
  · subst hi
    simpa [readsBegun] using exec_read_readsBegun h
  · obtain ⟨u, r, he, -, rfl⟩ := exec_next_effect h
    simpa [hi, readsBegun] using effect_keeps_readsBegun he hi

/-! ### The operations, branch by branch (R201 to R204, R210 to R216) -/

/-- Settles O36: the two branches of REGCB. -/
theorem regcbRegistersNonzeroHandles : Obligations.RegcbRegistersNonzeroHandles := by
  refine fun s d => ⟨exec_regcb_register s, ?_⟩
  rintro rfl
  exact exec_regcb_zero s

/-- Settles O37: UNREGCB has one branch. -/
theorem unregcbClearsTheCallback : Obligations.UnregcbClearsTheCallback := fun _ => rfl

/-- Settles O38: the two branches of ENABLE. -/
theorem enableFlushesOnReenable : Obligations.EnableFlushesOnReenable := fun _ =>
  ⟨exec_enable_reenable, exec_enable_enabled⟩

/-- Settles O39: DISABLE has one branch. -/
theorem disableClearsTheFlag : Obligations.DisableClearsTheFlag := fun _ => rfl

/-- Settles O40: the three branches of READ. -/
theorem readServesTheOldestByte : Obligations.ReadServesTheOldestByte := fun _ =>
  ⟨exec_read_busy, fun hw _ _ hq => exec_read_takesByte hw hq, exec_read_waits⟩

/-- Settles O41: the two branches of RTMO. -/
theorem rtmoTimesOutTheWaitingRead : Obligations.RtmoTimesOutTheWaitingRead := fun _ => ⟨exec_rtmo_timeout, exec_rtmo_idle⟩

/-- Settles O42: the DATA of ACKST's answer is the code of the status (R90). -/
theorem ackstReadsTheAckStatus : Obligations.AckstReadsTheAckStatus := by
  intro s
  rw [exec, execAckst, respond]
  cases s.ackStatus <;> rfl

end Sys2Proof.Machine
end

section
/-! SUPPORT. 60_exceptions.md: what each effect reports (R250), what the starts and stops of R259 do to the states that the timers
accompany (R252), and a step of one of several ports (R258). -/

namespace Sys2Proof.Machine

/-! ### What one operation reports (R250) -/

/-- Settles O50: of the effects, a dropped byte, a framing error with a send path or without one, and the ack check report something. -/
theorem oneErrorPerOperation : Obligations.OneErrorPerOperation := by
  intro i s t h
  obtain ⟨u, r, he, -, rfl⟩ := exec_next_effect h
  cases he with
  | overflow hm => exact ⟨[.queueOverflow], rfl, by simp [hm]⟩
  | resend l k hm => exact ⟨[framingEvent k], rfl, by cases k <;> simp [framingEvent, hm]⟩
  | resendMissing l k hm =>
    exact ⟨[.resendNotImplemented, framingEvent k], List.append_assoc _ _ _, by cases k <;> simp [framingEvent, hm]⟩
  | ackCheck l hm => exact ⟨[ackEvent l], rfl, by cases l <;> simp [ackEvent, hm]⟩
  | unchanged | startBit | dataBit | parityBit | toCallback | toWaitingRead | toQueue | writeBit | send | commit | takeByte | wait
  | timeout | register | unregister | reenable | disable => exact ⟨[], (List.append_nil _).symm, by simp⟩

/-! ### The inhibit timer and the inhibit phase (R259) -/

theorem after_inhibitSince (c : Timers) (o : TimedOp) (s t : State) : (c.after o s t).inhibitSince =
    if startsInhibit o.op s then some o.time else if o.op = .inhdone then none else c.inhibitSince := rfl

theorem isFramingError_iff (l : Bit) (s : State) : isFramingError l s = true ↔ ∃ k, FramingErrorAt k l s := by
  simp [isFramingError, FramingErrorAt, exists_or, or_assoc]

/-- SendPhase1 is run by a WRITE or a framing error, on a working send path (R131, R152). -/
theorem startsInhibit_iff (i : Instr) (s : State) :
    startsInhibit i s = true ↔ s.cfg.sendPathImplemented = true ∧
      ((∃ d, i = .write d) ∨ ∃ l k, i = .fall l ∧ s.mode = .read ∧ FramingErrorAt k l s) := by
  cases i <;> simp [startsInhibit, isFramingError_iff]

/-- An operation that starts the inhibit timer leaves the inhibit phase on (R150). -/
theorem exec_startsInhibit_inh {i : Instr} {s t : State} (hs : startsInhibit i s = true) (h : exec i s = .next t) :
    t.inh = true := by
  obtain ⟨hc, ⟨d, rfl⟩ | ⟨l, k, rfl, hm, hk⟩⟩ := (startsInhibit_iff i s).1 hs
  · cases (exec_write_send d hc).symm.trans h
    rfl
  · cases (exec_fall_framingError hm hk).symm.trans h
    rw [respond_inh, abortAndRecover_send k s hc]

/-- An INHDONE leaves it off, pending write or not (R153, R154). -/
theorem exec_inhdone_inh {s t : State} (h : exec .inhdone s = .next t) : t.inh = false := by
  rcases exec_inhdone_next h with ⟨-, rfl⟩ | ⟨hi, rfl⟩
  · rfl
  · exact hi

/-- Every other operation leaves the phase as it was (R40). -/
theorem effect_keeps_inh {i : Instr} {s u : State} (he : Effect i s u) (hs : ¬ startsInhibit i s = true) (hi : i ≠ .inhdone) :
    u.inh = s.inh := by
  rw [startsInhibit_iff] at hs
  cases he with
  | resend l k hm hk hc => exact absurd ⟨hc, .inr ⟨l, k, rfl, hm, hk⟩⟩ hs
  | send d hc => exact absurd ⟨hc, .inl ⟨d, rfl⟩⟩ hs
  | commit => exact absurd rfl hi
  | unchanged | startBit | dataBit | parityBit | toCallback | toWaitingRead | toQueue | overflow | resendMissing | writeBit
  | ackCheck | takeByte | wait | timeout | register | unregister | reenable | disable => rfl

/-- The inhibit timer keeps running exactly during the inhibit phase. -/
theorem exec_keeps_inhibitTimer {c : Timers} {o : TimedOp} {s t : State} (h : exec o.op s = .next t)
    (hc : c.inhibitSince.isSome = s.inh) : (c.after o s t).inhibitSince.isSome = t.inh := by
  rw [after_inhibitSince]
  split
  next hs => exact (exec_startsInhibit_inh hs h).symm
  next hs =>
    split
    next hi => exact (exec_inhdone_inh (hi ▸ h)).symm
    next hi =>
      obtain ⟨u, r, he, -, rfl⟩ := exec_next_effect h
      exact hc.trans (effect_keeps_inh he hs hi).symm

/-! ### The read timer and the waiting READ (R259) -/

theorem after_readSince (c : Timers) (o : TimedOp) (s t : State) : (c.after o s t).readSince =
    if startsReadTimer o.op s then some o.time else if s.rdDone.length < t.rdDone.length then none else c.readSince := rfl

theorem startsReadTimer_iff (i : Instr) (s : State) :
    startsReadTimer i s = true ↔ i = .read ∧ s.rdWait = false ∧ s.queue = [] := by
  simp [startsReadTimer, and_assoc]

/-- An operation that starts the read timer leaves a READ waiting (R210). -/
theorem exec_startsReadTimer_rdWait {i : Instr} {s t : State} (hs : startsReadTimer i s = true) (h : exec i s = .next t) :
    t.rdWait = true := by
  obtain ⟨rfl, hw, hq⟩ := (startsReadTimer_iff i s).1 hs
  cases (exec_read_waits hw hq).symm.trans h
  rfl

/-- Every other operation ends the wait exactly with a record, by RTMO or by an Enqueue (R212, R55). -/
theorem effect_rdWait {i : Instr} {s u : State} (he : Effect i s u) (hs : ¬ startsReadTimer i s = true) :
    u.rdWait = if s.rdDone.length < u.rdDone.length then false else s.rdWait := by
  rw [startsReadTimer_iff] at hs
  cases he with
  | toWaitingRead => simp [complete]
  | timeout => simp
  | wait hw hq => exact absurd ⟨rfl, hw, hq⟩ hs
  | unchanged | startBit | dataBit | parityBit | toCallback | toQueue | overflow | resend | resendMissing | writeBit | ackCheck | send
  | commit | takeByte | register | unregister | reenable | disable => exact (if_neg (Nat.lt_irrefl _)).symm

/-- The read timer keeps running exactly while a READ waits. -/
theorem exec_keeps_readTimer {c : Timers} {o : TimedOp} {s t : State} (h : exec o.op s = .next t)
    (hc : c.readSince.isSome = s.rdWait) : (c.after o s t).readSince.isSome = t.rdWait := by
  rw [after_readSince]
  split
  next hs => exact (exec_startsReadTimer_rdWait hs h).symm
  next hs =>
    obtain ⟨u, r, he, -, rfl⟩ := exec_next_effect h
    rw [effect_rdWait he hs, ← hc]
    exact apply_ite Option.isSome _ _ _

/-- Settles O57, by induction on the timed run: both timers are stopped at reset, and every operation keeps the two equations. -/
theorem timersRunExactlyWhilePending : Obligations.TimersRunExactlyWhilePending := by
  intro c s hrun
  induction hrun with
  | reset cfg => exact ⟨rfl, rfl⟩
  | step c s t o _ _ he ih =>
    obtain ⟨hinhibit, hread⟩ := ih
    exact ⟨exec_keeps_inhibitTimer he hinhibit, exec_keeps_readTimer he hread⟩

/-! ### Several ports (R258) -/

/-- A step of a port that is there completes exactly when the step of its state does, and replaces that state alone. -/
theorem stepPort_eq_next_iff {k : Nat} {ports ports' : List State} {s : State} (hs : ports[k]? = some s) :
    stepPort k ports = .next ports' ↔ ∃ t, step s = .next t ∧ ports.set k t = ports' := by
  cases hstep : step s <;> simp [stepPort, hs, hstep]

theorem stepPort_fault {k : Nat} {ports : List State} {s : State} {r : Fault} (hs : ports[k]? = some s)
    (h : step s = .fault r) : stepPort k ports = .fault r := by
  simp [stepPort, hs, h]

/-- Replacing the state of a port that is there changes what stands at its place and nowhere else. -/
theorem getElem?_set_port {k : Nat} {ports : List State} {s : State} (hs : ports[k]? = some s) (t : State) :
    (ports.set k t)[k]? = some t ∧ ∀ j, j ≠ k → (ports.set k t)[j]? = ports[j]? :=
  have ⟨hk, _⟩ := List.getElem?_eq_some_iff.1 hs
  ⟨List.getElem?_set_self hk, fun _ hj => List.getElem?_set_ne hj.symm⟩

/-- Settles O59: a step of one port replaces its state by what `step` gives, or stops with it. -/
theorem portsShareNoState : Obligations.PortsShareNoState := by
  intro k ports s hs
  refine ⟨fun t ht => ?completes, fun _ => stepPort_fault hs, fun ports' hp => ?completed⟩
  case completes =>
    exact ⟨ports.set k t, (stepPort_eq_next_iff hs).2 ⟨t, ht, rfl⟩, List.length_set, getElem?_set_port hs t⟩
  case completed =>
    obtain ⟨t, ht, rfl⟩ := (stepPort_eq_next_iff hs).1 hp
    exact ⟨t, ht, getElem?_set_port hs t⟩

end Sys2Proof.Machine
end

section
/-! SUPPORT. 70_reset_and_hazards.md: the reset table (R270), the idle step (R273), and what the bounds of the two timers give over runs
(R280, R285). A fair read timer is argued over the states of an endless input, none of which stops; the bounds over timed runs by two
invariants of timers and state, one for each timer. -/

namespace Sys2Proof.Machine

/-! ### Reset and the idle step (R270, R273) -/

/-- Settles O52: the reset state and the timers at reset are literal records. -/
theorem resetTable : Obligations.ResetTable := by
  refine ⟨fun cfg s hs => ?table, ⟨⟨true, .unbounded⟩, rfl, rfl⟩, rfl, rfl⟩
  case table =>
    subst hs
    simp [State.resetWith]

/-- Settles O9: with an empty input there is no word to fetch. -/
theorem stepIdlesWithoutInput : Obligations.StepIdlesWithoutInput := fun s hi => by
  rw [step, (fetch_eq_none s).2 hi]

/-! ### The states of an endless input -/

/-- A word meets I1 to I10 with I1 to I10 and never stops: it is the step of a state to which the word is supplied (R41). -/
theorem applyWord_completes {s : State} (w : Word) (h : StateInv s) : ∃ t, applyWord w s = .next t ∧ StateInv t := by
  have hsupplied : StateInv (supplyWord w s) := { h with }
  have hstep : step (supplyWord w s) = applyWord w s := step_eq_applyWord rfl
  obtain ⟨t, ht⟩ := step_completes hsupplied.positions.1
  exact ⟨t, hstep.symm.trans ht, stepKeepsTheInvariants _ t hsupplied ht⟩

theorem stateAt_succ (env : Nat → Word) {s t : State} {n : Nat} (h : stateAt env s n = .next t) :
    stateAt env s (n + 1) = applyWord (env n) t := by
  simp only [stateAt, h]

theorem stateAt_completes (env : Nat → Word) {s : State} (h : StateInv s) (n : Nat) :
    ∃ t, stateAt env s n = .next t ∧ StateInv t := by
  induction n with
  | zero => exact ⟨s, rfl, h⟩
  | succ n ih =>
    obtain ⟨t, ht, hinv⟩ := ih
    rw [stateAt_succ env ht]
    exact applyWord_completes (env n) hinv

/-! ### A fair read timer (R285, R214) -/

/-- A word lets a READ wait, with no record, or completes it with one, as its operation does (R214, R218). -/
theorem applyWord_while_waiting {w : Word} {s t : State} (h : applyWord w s = .next t) (hw : s.rdWait = true) :
    (t.rdWait = true ∧ t.rdDone = s.rdDone) ∨ (t.rdWait = false ∧ ∃ c, t.rdDone = s.rdDone ++ [c]) := by
  rcases applyWord_cases w s with ⟨i, -, hi⟩ | ⟨-, hi⟩
  · exact exec_while_waiting (hi.symm.trans h) hw
  · cases hi.symm.trans h
    exact .inl ⟨hw, rfl⟩

/-- After its first `n` words the input reaches a state in which no READ waits and `done` has got exactly one more record. -/
def CompletedAfter (env : Nat → Word) (s : State) (n : Nat) (done : List Completion) : Prop :=
  ∃ m u c, n < m ∧ stateAt env s m = .next u ∧ u.rdWait = false ∧ u.rdDone = done ++ [c]

/-- A READ that no record ever completes waits in every later state. -/
theorem waits_of_not_completedAfter {env : Nat → Word} {s t : State} {n : Nat} (hinv : StateInv s)
    (hn : stateAt env s n = .next t) (hw : t.rdWait = true) (hno : ¬ CompletedAfter env s n t.rdDone) {m : Nat} (hm : n ≤ m) :
    ∃ u, stateAt env s m = .next u ∧ u.rdWait = true ∧ u.rdDone = t.rdDone := by
  induction m, hm using Nat.le_induction with
  | base => exact ⟨t, hn, hw, rfl⟩
  | succ m hm ih =>
    obtain ⟨u, hu, huw, hud⟩ := ih
    obtain ⟨v, hv, -⟩ := stateAt_completes env hinv (m + 1)
    rcases applyWord_while_waiting ((stateAt_succ env hu).symm.trans hv) huw with ⟨hvw, hvd⟩ | ⟨hvw, c, hvd⟩
    · exact ⟨v, hv, hvw, hvd.trans hud⟩
    · exact absurd ⟨m + 1, v, c, Nat.lt_succ_of_le hm, hv, hvw, hud ▸ hvd⟩ hno

/-- Settles O45: were the READ never completed it would wait for ever, so fairness gives an RTMO, after which nothing waits. -/
theorem fairTimerEndsEveryWait : Obligations.FairTimerEndsEveryWait := by
  intro env s hinv hfair n t hn hw
  by_contra hno
  have hwaits {m : Nat} (hm : n ≤ m) := waits_of_not_completedAfter hinv hn hw hno hm
  obtain ⟨m, hm, hrtmo⟩ : ∃ m, n ≤ m ∧ decode (env m) = .ok .rtmo := by
    refine hfair n fun m hm u hu => ?_
    obtain ⟨v, hv, hvw, -⟩ := hwaits hm
    cases hv.symm.trans hu
    exact hvw
  obtain ⟨u, hu, huw, -⟩ := hwaits hm
  obtain ⟨v, hv, hvw, -⟩ := hwaits (Nat.le_succ_of_le hm)
  rw [stateAt_succ env hu, applyWord_eq_exec u hrtmo, exec_rtmo_timeout huw] at hv
  cases hv
  cases hvw

/-! ### Timed runs -/

theorem exec_keeps_stateInv {i : Instr} {s t : State} (h : StateInv s) (he : exec i s = .next t) : StateInv t := by
  obtain ⟨u, r, hu, -, rfl⟩ := exec_next_effect he
  exact { effect_keeps_stateInv i s u hu h with }

theorem timedReachable_stateInv {c : Timers} {s : State} (h : TimedReachable c s) : StateInv s := by
  induction h with
  | reset cfg => exact resetMeetsTheInvariants cfg []
  | step c s t o _ _ he ih => exact exec_keeps_stateInv ih he

/-- What every operation of a timed run keeps holds at the run's end. -/
theorem TimedRun.keeps {P : Timers → State → Prop} {c c' : Timers} {s u : State} {ops : List TimedOp}
    (hrun : TimedRun c s ops c' u)
    (hstep : ∀ o ∈ ops, ∀ c s t, c.allow o → exec o.op s = .next t → P c s → P (c.after o s t) t) (h : P c s) : P c' u := by
  induction hrun with
  | nil => exact h
  | cons c c' s t u o os ha he _ ih =>
    exact ih (fun x hx => hstep x (List.mem_cons_of_mem o hx)) (hstep o List.mem_cons_self c s t ha he h)

/-! ### The inhibit timer keeps its bound (R280) -/

/-- The clock is held low and the inhibit timer runs, since no earlier than `start` (R150, R259). -/
structure InhibitedSince (start : Nat) (c : Timers) (s : State) : Prop where
  phase : s.clkDrive = .low ∧ s.inh = true
  now : start ≤ c.now
  timer : ∃ since, c.inhibitSince = some since ∧ start ≤ since

/-- An operation that runs SendPhase1 leaves the clock driven low (R150). -/
theorem exec_startsInhibit_clkDrive {i : Instr} {s t : State} (hs : startsInhibit i s = true) (h : exec i s = .next t) :
    t.clkDrive = .low := by
  obtain ⟨hc, ⟨d, rfl⟩ | ⟨l, k, rfl, hm, hk⟩⟩ := (startsInhibit_iff i s).1 hs
  · cases (exec_write_send d hc).symm.trans h
    rfl
  · cases (exec_fall_framingError hm hk).symm.trans h
    rw [respond_clkDrive, abortAndRecover_send k s hc]

/-- A SendPhase1 begins an inhibit at its own time. -/
theorem inhibitedSince_start (c : Timers) {o : TimedOp} {s t : State} (hs : startsInhibit o.op s = true)
    (he : exec o.op s = .next t) : InhibitedSince o.time (c.after o s t) t where
  phase := ⟨exec_startsInhibit_clkDrive hs he, exec_startsInhibit_inh hs he⟩
  now := Nat.le_refl o.time
  timer := ⟨o.time, by rw [after_inhibitSince, if_pos hs], Nat.le_refl o.time⟩

/-- Every operation but INHDONE keeps it: a later SendPhase1 restarts the timer, and time does not run back. -/
theorem exec_keeps_inhibitedSince {start : Nat} {c : Timers} {o : TimedOp} {s t : State} (ha : c.allow o)
    (he : exec o.op s = .next t) (hi : o.op ≠ .inhdone) (h : InhibitedSince start c s) :
    InhibitedSince start (c.after o s t) t := by
  have hnow : start ≤ o.time := h.now.trans ha.1
  refine ⟨exec_during_inhibit he hi h.phase, hnow, ?_⟩
  rw [after_inhibitSince, if_neg hi]
  split
  next => exact ⟨o.time, rfl, hnow⟩
  next => exact h.timer

/-- The INHDONE that ends the inhibit comes no earlier than T_INHIBIT_US after its start. -/
theorem InhibitedSince.inhdone_bound {start : Nat} {c : Timers} {s : State} {e : TimedOp} (h : InhibitedSince start c s)
    (ha : c.allow e) (he : e.op = .inhdone) : start + Config.tInhibitUs ≤ e.time := by
  obtain ⟨since, hsince, hstart⟩ := h.timer
  obtain ⟨since', hsince', hbound⟩ := ha.2.1 he
  cases hsince.symm.trans hsince'
  omega

/-! ### The read timer keeps its bound (R285) -/

/-- A READ waits whose timer runs since `start`, and `done` are the records so far (R210, R259). -/
structure ReadWaitsSince (start : Nat) (done : List Completion) (c : Timers) (s : State) : Prop where
  waits : s.rdWait = true
  records : s.rdDone = done
  timer : c.readSince = some start

/-- A READ that begins to wait starts the timer at its own time. -/
theorem readWaitsSince_start (c : Timers) {o : TimedOp} {s t : State} (hs : startsReadTimer o.op s = true)
    (he : exec o.op s = .next t) : ReadWaitsSince o.time t.rdDone (c.after o s t) t where
  waits := exec_startsReadTimer_rdWait hs he
  records := rfl
  timer := by rw [after_readSince, if_pos hs]

theorem exec_rdDone_length_le {i : Instr} {s t : State} (he : exec i s = .next t) : s.rdDone.length ≤ t.rdDone.length := by
  obtain ⟨u, r, hu, -, rfl⟩ := exec_next_effect he
  exact (effect_tracesExtend i s u hu).rdDone.length_le

/-- While a READ waits no other starts the timer, so an operation keeps the wait and its timer or adds a record (R210, R214). -/
theorem exec_keeps_readWaitsSince {start : Nat} {done : List Completion} {c : Timers} {o : TimedOp} {s t : State}
    (he : exec o.op s = .next t) (h : ReadWaitsSince start done c s) :
    ReadWaitsSince start done (c.after o s t) t ∨ done.length < t.rdDone.length := by
  obtain ⟨hw, rfl, htimer⟩ := h
  rcases exec_while_waiting he hw with ⟨htw, htd⟩ | ⟨-, r, htd⟩
  · have hs : ¬ startsReadTimer o.op s = true := by simp [startsReadTimer_iff, hw]
    exact .inl ⟨htw, htd, by rw [after_readSince, if_neg hs, htd, if_neg (Nat.lt_irrefl _), htimer]⟩
  · exact .inr (by simp [htd])

/-- Over a timed run the READ waits with its timer untouched until a record is added, and then that record stays. -/
theorem TimedRun.readWaitsSince {start : Nat} {done : List Completion} {c c' : Timers} {s u : State} {ops : List TimedOp}
    (hrun : TimedRun c s ops c' u) (h : ReadWaitsSince start done c s) :
    ReadWaitsSince start done c' u ∨ done.length < u.rdDone.length := by
  refine hrun.keeps (P := fun c s => ReadWaitsSince start done c s ∨ done.length < s.rdDone.length) ?_ (.inl h)
  rintro o - c s t - he (hwait | hmore)
  · exact exec_keeps_readWaitsSince he hwait
  · exact .inr (hmore.trans_le (exec_rdDone_length_le he))

/-- The RTMO that ends the wait comes no earlier than READ_TIMEOUT_US after its start. -/
theorem ReadWaitsSince.rtmo_bound {start : Nat} {done : List Completion} {c : Timers} {s : State} {e : TimedOp}
    (h : ReadWaitsSince start done c s) (ha : c.allow e) (he : e.op = .rtmo) : start + Config.readTimeoutUs ≤ e.time := by
  obtain ⟨since, hsince, hbound⟩ := ha.2.2 he
  cases h.timer.symm.trans hsince
  exact hbound

/-! ### Both timers over timed runs (R280, R285) -/

theorem hundred_le_tInhibitUs : 100 ≤ Config.tInhibitUs := Nat.le_add_right _ _

theorem readTimeoutUs_pos : 0 < Config.readTimeoutUs := Nat.le_add_right _ _

/-- An RTMO while a READ waits completes, and its record is TIMEOUT (R212). -/
theorem exists_exec_rtmo_timeout {s : State} (hw : s.rdWait = true) :
    ∃ t, exec .rtmo s = .next t ∧ t.rdDone = s.rdDone ++ [.timeout] :=
  ⟨_, exec_rtmo_timeout hw, rfl⟩

/-- Settles O58: an expiry that may come has its timer running, so by O57 its phase is on; and the two invariants hold from the start of
each timer on, and give the bounds. -/
theorem timersKeepTheirBounds : Obligations.TimersKeepTheirBounds := by
  refine ⟨fun c s o hrun ha => ⟨fun ho => ?inhdone, fun ho => ?rtmo⟩, fun c c' s t u o between hs he hrun hbetween => ?inhibit,
    fun c c' s t u o between hs he hrun hdone => ?read⟩
  case inhdone =>
    obtain ⟨since, hsince, -⟩ := ha.2.1 ho
    have hinh : s.inh = true := by rw [← (timersRunExactlyWhilePending c s hrun).1, hsince]; rfl
    rw [ho]
    exact ⟨(timedReachable_stateInv hrun).clockLow.2 hinh, hinh, _, exec_inhdone_commit hinh, rfl, rfl⟩
  case rtmo =>
    obtain ⟨since, hsince, -⟩ := ha.2.2 ho
    have hw : s.rdWait = true := by rw [← (timersRunExactlyWhilePending c s hrun).2, hsince]; rfl
    rw [ho]
    exact ⟨hw, exists_exec_rtmo_timeout hw⟩
  case inhibit =>
    have h : InhibitedSince o.time c' u := hrun.keeps
      (fun x hx _ _ _ ha he => exec_keeps_inhibitedSince ha he (hbetween x hx)) (inhibitedSince_start c hs he)
    obtain ⟨hclock, hinh⟩ := h.phase
    refine ⟨hclock, hinh, fun e ha hop => ?_⟩
    have hbound := h.inhdone_bound ha hop
    exact ⟨hbound, (Nat.add_le_add_left hundred_le_tInhibitUs o.time).trans hbound⟩
  case read =>
    have h : ReadWaitsSince o.time t.rdDone c' u :=
      (hrun.readWaitsSince (readWaitsSince_start c hs he)).resolve_right (by simp [hdone])
    refine ⟨h.waits, fun e ha hop => ?_⟩
    have hbound := h.rtmo_bound ha hop
    rw [hop, ← hdone]
    exact ⟨hbound, (Nat.lt_add_of_pos_right readTimeoutUs_pos).trans_le hbound, exists_exec_rtmo_timeout h.waits⟩

end Sys2Proof.Machine
end
